-- ==== Sys2Proof/Word.lean ====
section
/-! DEFINITION. The word types of the block and nothing else: a bus data byte, a 16-bit bus word, the addresses of the
two machines (00_scope R5, R11). Every value is unsigned. -/

namespace Sys2Proof

/-- One data byte of the bus, a port number after masking, or one byte of a region (R5, R11). -/
abbrev Byte := BitVec 8

/-- The data of a 16-bit access of tr175 (R46, R49). -/
abbrev Word16 := BitVec 16

/-- A memory address of xor100: `AW = 16` (R5). -/
abbrev Addr16 := BitVec 16

/-- A memory address of tr175: `AW = 24` (R5). -/
abbrev Addr24 := BitVec 24

/-- A drive slot number, 0 to 3 (R23, R24). -/
abbrev Drive := Fin 4

end Sys2Proof
end

