-- ==== Sys2Proof/Config.lean ====
section
/-! DEFINITION. What an implementation fixes (00_scope R5 to R10): the record `Config`, which a state carries and no step
changes; the dispatch tables a configuration may bring (20_memory R35 to R37); and the free values, constants without a
body, which nothing can evaluate (R12 `draw`, U10, U11). -/

namespace Sys2Proof

/-- `MACHINE` (R5). -/
inductive MachineKind where
  | xor100
  | tr175
deriving DecidableEq, Repr

/-- `AW`, the width of a memory address in bits (R5). -/
def MachineKind.addrWidth : MachineKind → Nat
  | .xor100 => 16
  | .tr175 => 24

/-- An idle value: all bits set, or zero (R9, R38). -/
inductive Idle where
  | ones
  | zeros
deriving DecidableEq, Repr

def Idle.byte : Idle → Byte
  | .ones => 0xFF#8
  | .zeros => 0x00#8

/-- `HOST_WAIT` (R10): whether a wait-state request is the fault or a stall. -/
inductive HostWait where
  | unsupported
  | stall
deriving DecidableEq, Repr

/-- `WRITE_WINDOW_END` (R10, D5). -/
inductive WriteWindowEnd where
  | atF7FF
  | atFFFF
deriving DecidableEq, Repr

def WriteWindowEnd.addr : WriteWindowEnd → Nat
  | .atF7FF => 0xF7FF
  | .atFFFF => 0xFFFF

/-- A memory region a table entry can name: the two of xor100 (R19, R20), or number `k` of the regions a generic table
names (R37, R54). -/
inductive RegionRef where
  | rom
  | ram
  | other (k : Nat)
deriving DecidableEq, Repr

/-- A byte lane of a 16-bit bus: data bits 15 to 8, or 7 to 0 (R45). -/
inductive Lane where
  | hi
  | lo
deriving DecidableEq, Repr

/-- The lane mask of a handler entry: `ALL` on an 8-bit bus, `HI`, `LO` or `BOTH` on a 16-bit bus (R44, R45);
`ALL` on a 16-bit bus by log 28. -/
inductive Lanes where
  | all
  | hi
  | lo
  | both
deriving DecidableEq, Repr

/-- A peripheral adapter with a read entry point, a write entry point, or both (R37, R44). -/
structure HandlerRef where
  id : Nat
  canRead : Bool
  canWrite : Bool
deriving DecidableEq, Repr

/-- The target of a table entry (R37). -/
inductive Target where
  | direct (region : RegionRef) (offset amask : Nat)
  | handler (h : HandlerRef) (lanes : Lanes) (idle : Byte)
  | unmapped (idle : Idle)
deriving DecidableEq, Repr

/-- A table entry `(start, end, target)` (R35). `base` is the `start` the target's offsets and register indexes count from
(R37, R44); it differs from `start` only for the upper part of an entry that `RebindRange` has split (log 20). -/
structure Entry where
  start : Nat
  stop : Nat
  base : Nat
  target : Target
deriving DecidableEq, Repr

/-- An entry as a table first gives it. -/
def Entry.span (start stop : Nat) (target : Target) : Entry := ⟨start, stop, start, target⟩

/-- The tables `T[read]` and `T[write]` of one address space (R35). -/
structure DispatchTables where
  read : List Entry
  write : List Entry
deriving DecidableEq, Repr

/-- The parameters of the machine (R5 to R10), but for `ROM_IMAGE`, which the state's field `rom` holds (log 7); and
`densityOneSets`, which of density commands 1 and 2 sets (93_implementation_defined U9). -/
structure Config where
  machine : MachineKind
  bankCount : Fin 9
  dipBaud : Byte
  idleMem : Idle
  idleIo : Idle
  writeWindowEnd : WriteWindowEnd
  zeroLowMirror : Bool
  selectorPowerOn : BitVec 3
  fcBusyFault : Bool
  fcIrqInverted : Bool
  densityOneSets : Bool
  hostWait : HostWait
  bus16BigEndian : Bool
  tr175Table : DispatchTables
deriving DecidableEq, Repr

/-- `BANK_SIZE` (R7). -/
def bankSize : Nat := 0x10000

/-- `ROM_SIZE` (R7). -/
def romSize : Nat := 0x800

/-- A free value of 8 bits, `draw(8)` (R12), one for each index. -/
opaque Config.free8 : Nat → Byte

/-- A free value of 4 bits, `draw(4)` (R12). -/
opaque Config.free4 : Nat → BitVec 4

/-- A free value of 1 bit, `draw(1)` (R12), and whether a stall ends (R129). -/
opaque Config.free1 : Nat → Bool

/-- The byte a RAM cell holds when nothing has written it since the power-on numbered `era` (R20, R144). -/
opaque Config.ramPowerOn : (era index : Nat) → Byte

/-- `ROM_IMAGE[i]` where the state's list does not give it (R8). -/
opaque Config.romImage : (index : Nat) → Byte

/-- The byte a cell of generic region `k` holds when nothing has written it since the power-on numbered `era` (R54). -/
opaque Config.regionPowerOn : (era k index : Nat) → Byte

/-- `DIP_BAUD` of the configuration at reset (R8, D18). -/
opaque Config.dipSwitch : Byte

/-- `TR175_TABLE` of the configuration at reset: nothing is mapped (DESIGN CHOICE, log 11). -/
def Config.emptyTr175Table : DispatchTables :=
  ⟨[Entry.span 0 0xFFFFFF (.unmapped .ones)], [Entry.span 0 0xFFFFFF (.unmapped .ones)]⟩

/-- The configuration of the reset state: every default of R9 and R10, and the document's one bank count (R6; log 10). -/
def Config.default : Config where
  machine := .xor100
  bankCount := 4
  dipBaud := Config.dipSwitch
  idleMem := .ones
  idleIo := .ones
  writeWindowEnd := .atFFFF
  zeroLowMirror := true
  selectorPowerOn := 0#3
  fcBusyFault := true
  fcIrqInverted := true
  densityOneSets := true
  hostWait := .unsupported
  bus16BigEndian := true
  tr175Table := Config.emptyTr175Table

end Sys2Proof
end

