-- ==== Sys2Proof/Syntax.lean ====
section
/-! DEFINITION. What the block is given and what it performs: the transactions and events of the environment as they come
(30_encoding R60, R68), and the ONE inductive of operations they decode to, one constructor per mnemonic of
spec/opcode_table.json (R63, R64, R68). -/

namespace Sys2Proof

/-- `mode` of the bank-switch controller (10_state R15). -/
inductive Mode where
  | zero
  | f800
  | off
deriving DecidableEq, Repr

/-- The seven persisted fields (10_state R32, 70 R148). -/
structure Persisted where
  mode : Mode
  selector : BitVec 3
  irq : Bool
  drq : Bool
  density : Bool
  busy : Bool
  select : Bool
deriving DecidableEq, Repr

/-- A serial channel (42 R93). -/
inductive Channel where
  | a
  | b
deriving DecidableEq, Repr

/-- A line from the RS-232 peer (42 R93). -/
inductive SerLine where
  | rxd
  | dsr
  | cts
deriving DecidableEq, Repr

/-- An event and its fields (30_encoding R68). -/
inductive Event where
  | powerOn
  | reset
  | restore (p : Persisted)
  | fdcIrq (b : Bool)
  | fdcDrq (b : Bool)
  | centBusy (b : Bool)
  | centSelect (b : Bool)
  | ctcZc (c : BitVec 2) (b : Bool)
  | serLine (ch : Channel) (line : SerLine) (b : Bool)
deriving DecidableEq, Repr

/-- One item of the environment's sequence: the tuple of R60 as it is presented. Addresses and widths are plain numbers,
since the CPU may present more address bits than the space has (R60, R62); a memory write's data stands in 16 bits. -/
inductive BusItem where
  | mr (addr n : Nat)
  | mw (addr n : Nat) (data : Word16)
  | ir (addr : Nat)
  | iw (addr : Nat) (data : Byte)
  | ev (e : Event)
deriving DecidableEq, Repr

/-- The five formats of R60. -/
inductive Format where
  | MR
  | MW
  | IR
  | IW
  | EV
deriving DecidableEq, Repr

def BusItem.format : BusItem → Format
  | .mr _ _ => .MR
  | .mw _ _ _ => .MW
  | .ir _ => .IR
  | .iw _ _ => .IW
  | .ev _ => .EV

/-- Why an item is no transaction of the machine (R34, R48, R49, R60). -/
inductive Reject where
  /-- The address does not fit in `AW` bits (R60). -/
  | addressTooWide
  /-- A width other than 1, or 2 where `BW = 16` (R49, R60). -/
  | badWidth
  /-- A one-byte write whose data does not fit in a byte (R60). -/
  | dataTooWide
  /-- A 16-bit access at an odd address (R48). -/
  | misalignedWord
  /-- A port transaction on tr175, which has no I/O space (R5, R34). -/
  | noIoSpace
deriving DecidableEq, Repr

/-- The width of a generic memory read (R49). -/
inductive Width where
  | byte
  | word
deriving DecidableEq, Repr

/-- The data of a memory access: 8n bits (R40, R41, R60). -/
inductive BusData where
  | byte (v : Byte)
  | word (v : Word16)
deriving DecidableEq, Repr

def BusData.width : BusData → Width
  | .byte _ => .byte
  | .word _ => .word

/-- The operations of spec/opcode_table.json. `a` is the memory address, `p` the masked port number, `v` the data byte,
`c` and `r` the fields `p[1:0]` (R65). -/
inductive Instr where
  | rdHi (a : Addr16)
  | rdLo (a : Addr16)
  | wrWin (a : Addr16) (v : Byte)
  | rdGen (a : Addr24) (n : Width)
  | wrGen (a : Addr24) (d : BusData)
  | outBanksel (v : Byte)
  | outEpromToggle (v : Byte)
  | inEpromF800
  | inSeraData
  | outSeraData (v : Byte)
  | inSeraStat
  | outSeraCtrl (v : Byte)
  | inSerbData
  | outSerbData (v : Byte)
  | inSerbStat
  | outSerbCtrl (v : Byte)
  | inDip
  | outBaud (v : Byte)
  | inPpiA
  | outPpiA (v : Byte)
  | inPpiB
  | outPpiB (v : Byte)
  | inPpiC
  | outPpiC (v : Byte)
  | inPpiCtrl
  | outPpiCtrl (v : Byte)
  | inCtc (c : BitVec 2)
  | outCtc (c : BitVec 2) (v : Byte)
  | inFdc (r : BitVec 2)
  | outFdc (r : BitVec 2) (v : Byte)
  | inFdcWait
  | outFdcDsel (v : Byte)
  | outFdcDens (v : Byte)
  | inUnmapped (p : Byte)
  | outUnmapped (p v : Byte)
  | evPoweron
  | evReset
  | evRestore (p : Persisted)
  | evFdcIrq (b : Bool)
  | evFdcDrq (b : Bool)
  | evCentBusy (b : Bool)
  | evCentSelect (b : Bool)
  | evCtcZc (c : BitVec 2) (b : Bool)
  | evSerLine (ch : Channel) (line : SerLine) (b : Bool)
deriving DecidableEq, Repr

/-- The format column of spec/opcode_table.json. -/
def Instr.format : Instr → Format
  | .rdHi _ | .rdLo _ | .rdGen _ _ => .MR
  | .wrWin _ _ | .wrGen _ _ => .MW
  | .inEpromF800 | .inSeraData | .inSeraStat | .inSerbData | .inSerbStat | .inDip | .inPpiA | .inPpiB | .inPpiC
  | .inPpiCtrl | .inCtc _ | .inFdc _ | .inFdcWait | .inUnmapped _ => .IR
  | .outBanksel _ | .outEpromToggle _ | .outSeraData _ | .outSeraCtrl _ | .outSerbData _ | .outSerbCtrl _ | .outBaud _
  | .outPpiA _ | .outPpiB _ | .outPpiC _ | .outPpiCtrl _ | .outCtc _ _ | .outFdc _ _ | .outFdcDsel _ | .outFdcDens _
  | .outUnmapped _ _ => .IW
  | .evPoweron | .evReset | .evRestore _ | .evFdcIrq _ | .evFdcDrq _ | .evCentBusy _ | .evCentSelect _ | .evCtcZc _ _
  | .evSerLine _ _ _ => .EV

/-- Whether an operation exists on a machine: `RD.GEN` and `WR.GEN` on tr175 only (40 R74), the host's three events on
both (70 R144, R145, R149), every other operation on xor100 only (R62, R64; 42, 43, 44 and 45 by their titles; log 16). -/
def Instr.existsOn : Instr → MachineKind → Bool
  | .rdGen _ _, m | .wrGen _ _, m => m == .tr175
  | .evPoweron, _ | .evReset, _ | .evRestore _, _ => true
  | .rdHi _, m | .rdLo _, m | .wrWin _ _, m | .outBanksel _, m | .outEpromToggle _, m | .inEpromF800, m
  | .inSeraData, m | .outSeraData _, m | .inSeraStat, m | .outSeraCtrl _, m | .inSerbData, m | .outSerbData _, m
  | .inSerbStat, m | .outSerbCtrl _, m | .inDip, m | .outBaud _, m | .inPpiA, m | .outPpiA _, m | .inPpiB, m
  | .outPpiB _, m | .inPpiC, m | .outPpiC _, m | .inPpiCtrl, m | .outPpiCtrl _, m | .inCtc _, m | .outCtc _ _, m
  | .inFdc _, m | .outFdc _ _, m | .inFdcWait, m | .outFdcDsel _, m | .outFdcDens _, m | .inUnmapped _, m
  | .outUnmapped _ _, m | .evFdcIrq _, m | .evFdcDrq _, m | .evCentBusy _, m | .evCentSelect _, m | .evCtcZc _ _, m
  | .evSerLine _ _ _, m => m == .xor100

end Sys2Proof
end

