-- ==== Sys2Proof/WellFormed.lean ====
section
/-! DEFINITION. Which operations an item can decode to: the address ranges of the memory windows (30_encoding R64), the
list of unmapped ports (45 R124), the alignment of a 16-bit access (20_memory R48). -/

namespace Sys2Proof

/-- The ports without a read operation: 08, 09, 10 to F7, FD, FE, FF (45 R124). -/
def unmappedIn (p : Byte) : Bool :=
  p == 0x08#8 || p == 0x09#8 || (0x10#8 ≤ p && p ≤ 0xF7#8) || p == 0xFD#8 || p == 0xFE#8 || p == 0xFF#8

/-- The ports without a write operation: 0A, 10 to F7, FE, FF (45 R124). -/
def unmappedOut (p : Byte) : Bool :=
  p == 0x0A#8 || (0x10#8 ≤ p && p ≤ 0xF7#8) || p == 0xFE#8 || p == 0xFF#8

/-- The high window, `addr[15:11] = 0b11111` (R64, 40 R71). -/
def inHighWindow (a : Addr16) : Bool := a.extractLsb' 11 5 == 0b11111#5

/-- A 16-bit access has an even address (R48). -/
def aligned (a : Addr24) : Width → Bool
  | .byte => true
  | .word => a.getLsbD 0 == false

def WellFormed : Instr → Bool
  | .rdHi a => inHighWindow a
  | .rdLo a => !inHighWindow a
  | .inUnmapped p => unmappedIn p
  | .outUnmapped p _ => unmappedOut p
  | .rdGen a n => aligned a n
  | .wrGen a d => aligned a d.width
  | .wrWin _ _ | .outBanksel _ | .outEpromToggle _ | .inEpromF800 | .inSeraData | .outSeraData _ | .inSeraStat
  | .outSeraCtrl _ | .inSerbData | .outSerbData _ | .inSerbStat | .outSerbCtrl _ | .inDip | .outBaud _ | .inPpiA
  | .outPpiA _ | .inPpiB | .outPpiB _ | .inPpiC | .outPpiC _ | .inPpiCtrl | .outPpiCtrl _ | .inCtc _ | .outCtc _ _
  | .inFdc _ | .outFdc _ _ | .inFdcWait | .outFdcDsel _ | .outFdcDens _ | .evPoweron | .evReset | .evRestore _
  | .evFdcIrq _ | .evFdcDrq _ | .evCentBusy _ | .evCentSelect _ | .evCtcZc _ _ | .evSerLine _ _ _ => true

end Sys2Proof
end

