-- ==== Sys2Proof/Decode.lean ====
section
/-! DEFINITION. The decoder of transactions and events (30_encoding R62 to R64, R68), total and rejecting by name, and
after it the encoder, written from the same tables. -/

namespace Sys2Proof

/-- A row of the I/O decode table (R63): match, mask, and the operation of each direction the row lists. -/
structure IoRow where
  pat : Byte
  mask : Byte
  input : Option (Byte → Instr)
  output : Option (Byte → Byte → Instr)

/-- `p[1:0]`, the channel or register field (R65). -/
def portField (p : Byte) : BitVec 2 := p.extractLsb' 0 2

/-- The rows of R63 for the serial and parallel ports, 00 to 07. -/
def ioTableLow : List IoRow :=
  [⟨0x00#8, 0xFF#8, some fun _ => .inSeraData, some fun _ v => .outSeraData v⟩,
   ⟨0x01#8, 0xFF#8, some fun _ => .inSeraStat, some fun _ v => .outSeraCtrl v⟩,
   ⟨0x02#8, 0xFF#8, some fun _ => .inSerbData, some fun _ v => .outSerbData v⟩,
   ⟨0x03#8, 0xFF#8, some fun _ => .inSerbStat, some fun _ v => .outSerbCtrl v⟩,
   ⟨0x04#8, 0xFF#8, some fun _ => .inPpiA, some fun _ v => .outPpiA v⟩,
   ⟨0x05#8, 0xFF#8, some fun _ => .inPpiB, some fun _ v => .outPpiB v⟩,
   ⟨0x06#8, 0xFF#8, some fun _ => .inPpiC, some fun _ v => .outPpiC v⟩,
   ⟨0x07#8, 0xFF#8, some fun _ => .inPpiCtrl, some fun _ v => .outPpiCtrl v⟩]

/-- The rows of R63 for the bank switch, the DIP switch and baud port, the counter/timer and the floppy layer. -/
def ioTableHigh : List IoRow :=
  [⟨0x08#8, 0xFF#8, none, some fun _ v => .outBanksel v⟩,
   ⟨0x09#8, 0xFF#8, none, some fun _ v => .outEpromToggle v⟩,
   ⟨0x0A#8, 0xFF#8, some fun _ => .inEpromF800, none⟩,
   ⟨0x0B#8, 0xFF#8, some fun _ => .inDip, some fun _ v => .outBaud v⟩,
   ⟨0x0C#8, 0xFC#8, some fun p => .inCtc (portField p), some fun p v => .outCtc (portField p) v⟩,
   ⟨0xF8#8, 0xFC#8, some fun p => .inFdc (portField p), some fun p v => .outFdc (portField p) v⟩,
   ⟨0xFC#8, 0xFF#8, some fun _ => .inFdcWait, some fun _ v => .outFdcDsel v⟩,
   ⟨0xFD#8, 0xFF#8, none, some fun _ v => .outFdcDens v⟩]

def ioTable : List IoRow := ioTableLow ++ ioTableHigh

def IoRow.matchesPort (row : IoRow) (p : Byte) : Bool := (p &&& row.mask) == row.pat

/-- The first row whose pattern the port has (R62). -/
def ioRowOf (p : Byte) : Option IoRow := ioTable.find? (·.matchesPort p)

/-- `p = addr[7:0]` (R62). -/
def portOf (addr : Nat) : Byte := BitVec.ofNat 8 addr

/-- `IoRead` decode (R62). -/
def decodeIn (p : Byte) : Instr :=
  match ioRowOf p with
  | none => .inUnmapped p
  | some row => match row.input with
    | some op => op p
    | none => .inUnmapped p

/-- `IoWrite` decode (R62). -/
def decodeOut (p v : Byte) : Instr :=
  match ioRowOf p with
  | none => .outUnmapped p v
  | some row => match row.output with
    | some op => op p v
    | none => .outUnmapped p v

/-- A memory read of xor100: `RD.HI` is tested first (R64). -/
def decodeReadWindow (a : Addr16) : Instr := if inHighWindow a then .rdHi a else .rdLo a

/-- The width of a memory transaction: 1, or 2 where `BW = 16` (R49, R60). -/
def decodeWidth (m : MachineKind) (n : Nat) : Except Reject Width :=
  match m, n with
  | _, 1 => .ok .byte
  | .tr175, 2 => .ok .word
  | _, _ => .error .badWidth

/-- The generic operations take any aligned 24-bit address (R48, R54, R74). -/
def decodeGen (a : Addr24) (n : Width) (i : Instr) : Except Reject Instr :=
  if aligned a n then .ok i else .error .misalignedWord

/-- `MR` (R60, R64). -/
def decodeMr (m : MachineKind) (addr n : Nat) : Except Reject Instr :=
  if 2 ^ m.addrWidth ≤ addr then .error .addressTooWide
  else match decodeWidth m n with
    | .error e => .error e
    | .ok width => match m with
      | .xor100 => .ok (decodeReadWindow (BitVec.ofNat 16 addr))
      | .tr175 => decodeGen (BitVec.ofNat 24 addr) width (.rdGen (BitVec.ofNat 24 addr) width)

/-- The data of a memory write at a width (R60). -/
def decodeData (n : Width) (data : Word16) : Except Reject BusData :=
  match n with
  | .word => .ok (.word data)
  | .byte => if data.toNat < 256 then .ok (.byte (data.setWidth 8)) else .error .dataTooWide

/-- `MW` (R60, R64). -/
def decodeMw (m : MachineKind) (addr n : Nat) (data : Word16) : Except Reject Instr :=
  if 2 ^ m.addrWidth ≤ addr then .error .addressTooWide
  else match decodeWidth m n with
    | .error e => .error e
    | .ok width => match decodeData width data with
      | .error e => .error e
      | .ok d => match m with
        | .xor100 => .ok (.wrWin (BitVec.ofNat 16 addr) (data.setWidth 8))
        | .tr175 => decodeGen (BitVec.ofNat 24 addr) width (.wrGen (BitVec.ofNat 24 addr) d)

/-- An event decodes to the operation of its name (R68). -/
def decodeEvent : Event → Instr
  | .powerOn => .evPoweron
  | .reset => .evReset
  | .restore p => .evRestore p
  | .fdcIrq b => .evFdcIrq b
  | .fdcDrq b => .evFdcDrq b
  | .centBusy b => .evCentBusy b
  | .centSelect b => .evCentSelect b
  | .ctcZc c b => .evCtcZc c b
  | .serLine ch line b => .evSerLine ch line b

/-- The operation an item of the sequence selects, on a machine (R60 to R64). It reads no state: "Decode has no side
effect and does not depend on any state". -/
def decode (m : MachineKind) : BusItem → Except Reject Instr
  | .mr addr n => decodeMr m addr n
  | .mw addr n data => decodeMw m addr n data
  | .ir addr => match m with
    | .xor100 => .ok (decodeIn (portOf addr))
    | .tr175 => .error .noIoSpace
  | .iw addr data => match m with
    | .xor100 => .ok (decodeOut (portOf addr) data)
    | .tr175 => .error .noIoSpace
  | .ev e => .ok (decodeEvent e)

/-- Whether R63 gives a port an output operation and no input operation (08, 09, FD). -/
def outputOnly (p : Byte) : Bool :=
  match ioRowOf p with
  | none => false
  | some row => row.input.isNone

/-- The bits of spec/opcode_table.json are an address pattern: 8 bits a port, 16 bits an xor100 memory address, 24 bits a
tr175 one. The direction is no bit of the table; the word stands for the first row of the table it matches, which is the
read, one byte wide, but for the output-only ports, whose write has the data byte 0 (log 13). -/
def tableItem (nbits w : Nat) : MachineKind × BusItem :=
  match nbits with
  | 8 => (.xor100, if outputOnly (portOf w) then .iw (w % 2 ^ 8) 0#8 else .ir (w % 2 ^ 8))
  | 24 => (.tr175, .mr (w % 2 ^ 24) 1)
  | _ => (.xor100, .mr (w % 2 ^ 16) 1)

def decodeTableWord (nbits w : Nat) : Option Instr :=
  match decode (tableItem nbits w).1 (tableItem nbits w).2 with
  | .ok i => some i
  | .error _ => none

/-- A register or channel number placed in a port pattern `xxxxxxrr` (R63, R65). -/
def portWith (pat : Byte) (r : BitVec 2) : Byte := pat ||| r.setWidth 8

/-- The item of the sequence that stands for an operation: its port or address by R63 and R64, its data, its event (R68). -/
def encode : Instr → BusItem
  | .rdHi a => .mr a.toNat 1
  | .rdLo a => .mr a.toNat 1
  | .wrWin a v => .mw a.toNat 1 (v.setWidth 16)
  | .rdGen a .byte => .mr a.toNat 1
  | .rdGen a .word => .mr a.toNat 2
  | .wrGen a (.byte v) => .mw a.toNat 1 (v.setWidth 16)
  | .wrGen a (.word v) => .mw a.toNat 2 v
  | .inSeraData => .ir 0x00
  | .outSeraData v => .iw 0x00 v
  | .inSeraStat => .ir 0x01
  | .outSeraCtrl v => .iw 0x01 v
  | .inSerbData => .ir 0x02
  | .outSerbData v => .iw 0x02 v
  | .inSerbStat => .ir 0x03
  | .outSerbCtrl v => .iw 0x03 v
  | .inPpiA => .ir 0x04
  | .outPpiA v => .iw 0x04 v
  | .inPpiB => .ir 0x05
  | .outPpiB v => .iw 0x05 v
  | .inPpiC => .ir 0x06
  | .outPpiC v => .iw 0x06 v
  | .inPpiCtrl => .ir 0x07
  | .outPpiCtrl v => .iw 0x07 v
  | .outBanksel v => .iw 0x08 v
  | .outEpromToggle v => .iw 0x09 v
  | .inEpromF800 => .ir 0x0A
  | .inDip => .ir 0x0B
  | .outBaud v => .iw 0x0B v
  | .inCtc c => .ir (portWith 0x0C#8 c).toNat
  | .outCtc c v => .iw (portWith 0x0C#8 c).toNat v
  | .inFdc r => .ir (portWith 0xF8#8 r).toNat
  | .outFdc r v => .iw (portWith 0xF8#8 r).toNat v
  | .inFdcWait => .ir 0xFC
  | .outFdcDsel v => .iw 0xFC v
  | .outFdcDens v => .iw 0xFD v
  | .inUnmapped p => .ir p.toNat
  | .outUnmapped p v => .iw p.toNat v
  | .evPoweron => .ev .powerOn
  | .evReset => .ev .reset
  | .evRestore p => .ev (.restore p)
  | .evFdcIrq b => .ev (.fdcIrq b)
  | .evFdcDrq b => .ev (.fdcDrq b)
  | .evCentBusy b => .ev (.centBusy b)
  | .evCentSelect b => .ev (.centSelect b)
  | .evCtcZc c b => .ev (.ctcZc c b)
  | .evSerLine ch line b => .ev (.serLine ch line b)

end Sys2Proof
end

