-- ==== Sys2Proof/Machine/State.lean ====
section
/-! DEFINITION. The state of the block (10_state R13 to R33) as plain data, with the machine's parameters, the sequence the
environment supplies and what the last step answered; the reasons a step can stop; and the state after power-on (70 R144). -/

namespace Sys2Proof.Machine

/-- The bytes of a memory region that are known: (address, byte) pairs, addresses strictly rising. An unlisted address
holds a free value (log 6, log 7). -/
abbrev Memory := List Host.Cell

/-- A binding of the write window W (10_state R17). -/
inductive WBinding where
  | ram (bank : BitVec 3)
  | detached
deriving DecidableEq, Repr

/-- A binding of the low read window RL (10_state R17). -/
inductive RLBinding where
  | romMirror
  | ram (bank : BitVec 3)
  | detached
deriving DecidableEq, Repr

/-- A binding of the high read window RH (10_state R17). -/
inductive RHBinding where
  | rom
  | ram (bank : BitVec 3)
  | detached
deriving DecidableEq, Repr

/-- The binding cache (10_state R17). -/
structure Windows where
  w : WBinding
  rl : RLBinding
  rh : RHBinding
deriving DecidableEq, Repr

/-- A region a generic table names (20_memory R37, R54): its size, its access mode and its known bytes. -/
structure Region where
  size : Nat
  writable : Bool
  cells : Memory
deriving DecidableEq, Repr

/-- `motor_on[0..3]` (10_state R24). -/
structure Motors where
  m0 : Bool
  m1 : Bool
  m2 : Bool
  m3 : Bool
deriving DecidableEq, Repr

/-- The causes of the one fault (60 R126). -/
inductive WaitCause where
  | irqRise
  | drqRise
  | busyRead
deriving DecidableEq, Repr

/-- A collaborator with read and write entry points (10_state R29), or a handler of a generic table (20_memory R37). -/
inductive Chip where
  | serA
  | serB
  | ppi
  | ctc
  | fdc
  | handler (id : Nat)
deriving DecidableEq, Repr

/-- What the block tells a collaborator: an entry point called or a line driven (R12, 10_state R29, R30). -/
inductive Call where
  | read (c : Chip) (r : Nat)
  | write (c : Chip) (r : Nat) (v : Byte)
  | brgSetA (code : BitVec 4)
  | brgSetB (code : BitVec 4)
  | fdcSetDrive (d : Option Drive)
  | fdcDensity (b : Bool)
  | printerStrobe (b : Bool)
  | cpuWait (b : Bool)
deriving DecidableEq, Repr

structure State where
  /-- The parameters (R5 to R10); no step changes them. -/
  cfg : Config
  /-- R15. -/
  mode : Mode
  /-- R16. -/
  selector : BitVec 3
  /-- The binding cache W, RL, RH (R17, R18). -/
  win : Windows
  /-- The known bytes of ROM (R19). -/
  rom : Memory
  /-- The bytes of RAM written since power-on (R20). -/
  ram : Memory
  /-- Which power-on drew the other bytes of RAM and of the generic regions (log 6). -/
  ramEra : Nat
  /-- The regions a generic table names (20_memory R37, R54). -/
  regions : List Region
  /-- R21. -/
  irq : Bool
  /-- R21. -/
  drq : Bool
  /-- R22. -/
  density : Bool
  /-- R23. -/
  selectedDrive : Option Drive
  /-- R24. -/
  motorOn : Motors
  /-- R25. -/
  centBusy : Bool
  /-- R25. -/
  centSelect : Bool
  /-- R26. -/
  centData : Byte
  /-- R26. -/
  centStrobe : Bool
  /-- R27. -/
  baudA : BitVec 4
  /-- R27. -/
  baudB : BitVec 4
  /-- R28, with the cause number of R126. -/
  fault : Option WaitCause
  /-- The wait-request line to the CPU (R30, R129). -/
  cpuWait : Bool
  /-- The rest of the environment's sequence (R60). -/
  inputs : List BusItem
  /-- The bytes the environment's collaborators answer with, before free values (log 4). -/
  chipBytes : List Byte
  /-- The data the step's read returned (R60). -/
  result : Option BusData
  /-- The calls the step made, in order. -/
  calls : List Call
  /-- The index of the next free value (log 5). -/
  draws : Nat
deriving DecidableEq, Repr

/-- Why the machine stops with a fault. -/
inductive Fault where
  /-- `Unsupported(WaitState)` (R126, R127): raised by the wait request of IN.FDC.WAIT, EV.FDC.IRQ and EV.FDC.DRQ. It
  carries the state R127 describes, kept for inspection (R133). Safe: the hardware would stretch the cycle and go on. -/
  | unsupportedWaitState (cause : WaitCause) (final : State)
  /-- A step was asked of a machine whose fault is set (R132, R133: no further step is taken), other than a power-on
  (R134): raised by step. Safe. -/
  | alreadyFaulted (cause : WaitCause)
deriving DecidableEq, Repr

/-- Why a step has no meaning. -/
inductive Refusal where
  /-- Raised by exec's arm of an operation that has no meaning yet. Safe. -/
  | notModelled (mnemonic : String)
  /-- An operation that does not exist on this machine (R3, R34, 40 R74): raised by every operation but the host's three
  events. Safe. -/
  | notOnThisMachine (m : MachineKind)
  /-- The next item is no transaction of the machine (R48, R49, R60): raised by step. Safe. -/
  | undecodable (r : Reject)
  /-- The environment supplies no further item (R60): raised by step. Safe. -/
  | noInput
  /-- A transaction while the wait request holds the CPU (R129): raised by step. Safe. -/
  | cpuStalled
  /-- A 16-bit access at an odd address (R48): raised by RD.GEN and WR.GEN. Safe. -/
  | misalignedWord (addr : Nat)
  /-- An access through a generic table in which no entry covers the address (R36(c)) or the index is outside its region
  (R37); such a table "is not a state of this hardware" (log 19, DESIGN CHOICE). Raised by RD.GEN and WR.GEN. Safe. -/
  | illegalTable (addr : Nat)
deriving DecidableEq, Repr

/-- One step's outcome. -/
abbrev Result := Host.Outcome State Fault Refusal

/-- The machine after power-on (R33, R144), with the parameters of `Config.default` and nothing yet supplied. The latches
that R144 draws hold free values; `draws` is past the indexes they use (log 8, log 9). -/
def State.reset : State where
  cfg := Config.default
  mode := .zero
  selector := 0#3
  win := ⟨.ram 0#3, .romMirror, .rom⟩
  rom := []
  ram := []
  ramEra := 0
  regions := []
  irq := false
  drq := false
  density := false
  selectedDrive := none
  motorOn := ⟨false, false, false, false⟩
  centBusy := false
  centSelect := false
  centData := Config.free8 0
  centStrobe := Config.free1 0
  baudA := Config.free4 0
  baudB := Config.free4 1
  fault := none
  cpuWait := false
  inputs := []
  chipBytes := []
  result := none
  calls := []
  draws := 2

end Sys2Proof.Machine
end

