-- ==== Sys2Proof/Machine/Operands.lean ====
section
/-! DEFINITION. The operand fields (30_encoding R65), the address arithmetic of the bank switch (41 R82), the drive
selection (44 R114), the lanes of a 16-bit bus (20_memory R45) and the byte order of a 16-bit access (R46). -/

namespace Sys2Proof.Machine

/-- `sel = v[2:0]` at port 08. -/
def selField (v : Byte) : BitVec 3 := v.extractLsb' 0 3

/-- `code_a = v[3:0]` at port 0B. -/
def codeAField (v : Byte) : BitVec 4 := v.extractLsb' 0 4

/-- `code_b = v[7:4]` at port 0B. -/
def codeBField (v : Byte) : BitVec 4 := v.extractLsb' 4 4

/-- `stb = v[0]` at port 05. -/
def strobeField (v : Byte) : Bool := v.getLsbD 0

/-- `ds = v[3:0]` at port FC. -/
def driveField (v : Byte) : BitVec 4 := v.extractLsb' 0 4

/-- `cmd = v[1:0]` at port FD. -/
def densityField (v : Byte) : BitVec 2 := v.extractLsb' 0 2

/-- The inverted data lines of ports F8 to FB (44 R111 to R113). -/
def invert (v : Byte) : Byte := v ^^^ 0xFF#8

/-- Bit d of `ds` selects drive d; a later bit overrides an earlier one (44 R114). -/
def selectDrive (ds : BitVec 4) : Option Drive :=
  let sd : Option Drive := none
  let sd := if ds.getLsbD 0 then some 0 else sd
  let sd := if ds.getLsbD 1 then some 1 else sd
  let sd := if ds.getLsbD 2 then some 2 else sd
  if ds.getLsbD 3 then some 3 else sd

/-- `motor_on[d]` (10_state R24). -/
def Motors.get (m : Motors) (d : Drive) : Bool :=
  match d with
  | 0 => m.m0
  | 1 => m.m1
  | 2 => m.m2
  | 3 => m.m3

/-- `motor_on[d] <- 1` (44 R116). -/
def Motors.start (m : Motors) (d : Drive) : Motors :=
  match d with
  | 0 => { m with m0 := true }
  | 1 => { m with m1 := true }
  | 2 => { m with m2 := true }
  | 3 => { m with m3 := true }

/-- `addr[10:0]`, the ROM index (41 R82(e)). -/
def romIndex (a : Addr16) : Nat := (a.extractLsb' 0 11).toNat

/-- `s * 0x10000 + addr`, the physical RAM address (41 R82(d)). -/
def physRam (bank : BitVec 3) (a : Addr16) : Nat := bank.toNat * bankSize + a.toNat

/-- `inr = (selector < BANK_COUNT)` (41 R75, R82(b)). -/
def inRange (cfg : Config) (bank : BitVec 3) : Bool := decide (bank.toNat < cfg.bankCount.val)

/-- The size of the RAM region (10_state R20). -/
def ramSize (cfg : Config) : Nat := cfg.bankCount.val * bankSize

/-- The lane of a byte address on a 16-bit bus (20_memory R45). -/
def laneOf (cfg : Config) (a : Nat) : Lane :=
  if (a % 2 == 0) == cfg.bus16BigEndian then .hi else .lo

/-- Whether a handler range answers a byte address (20_memory R44, R45). The spec gives `ALL` to an 8-bit bus only; on the
16-bit bus of tr175 an entry with `ALL` is run as `BOTH` (log 28, DESIGN CHOICE). -/
def lanesAnswer (cfg : Config) (lanes : Lanes) (a : Nat) : Bool :=
  match lanes with
  | .all | .both => true
  | .hi => laneOf cfg a == .hi
  | .lo => laneOf cfg a == .lo

/-- The register index of a byte address in a handler range (20_memory R44, R45); `ALL` on a 16-bit bus as `BOTH` (log 28,
DESIGN CHOICE). -/
def handlerReg (lanes : Lanes) (base a : Nat) : Nat :=
  match lanes with
  | .all | .both => a - base
  | .hi | .lo => (a - base) / 2

/-- The word of the two bytes at a and a + 1 (20_memory R46). -/
def joinWord (cfg : Config) (b0 b1 : Byte) : Word16 :=
  if cfg.bus16BigEndian then b0 ++ b1 else b1 ++ b0

/-- The bytes of a word that go to a and a + 1 (20_memory R46). -/
def splitWord (cfg : Config) (v : Word16) : Byte × Byte :=
  if cfg.bus16BigEndian then (v.extractLsb' 8 8, v.extractLsb' 0 8) else (v.extractLsb' 0 8, v.extractLsb' 8 8)

/-- The cause numbers of 60 R126. -/
def WaitCause.number : WaitCause → Nat
  | .irqRise => 1
  | .drqRise => 2
  | .busyRead => 3

/-- The port R126 records with a cause: FC for the busy read, none for the events. -/
def WaitCause.port : WaitCause → Option Byte
  | .irqRise | .drqRise => none
  | .busyRead => some 0xFC#8

end Sys2Proof.Machine
end

