-- ==== Sys2Proof/Machine/Flags.lean ====
section
/-! DEFINITION. The computations of the block's single-bit status values (10_state R31) and of the mode: the density
command (44 R117), the edge of a line (44 R119), the mode toggle (41 R78), and the two status bytes software reads
(43 R100, 44 R115). The block has no condition codes. -/

namespace Sys2Proof.Machine

/-- `density` after the command `v[1:0]` (44 R117; which of 1 and 2 sets is a parameter, 93_implementation_defined U9). -/
def nextDensity (cfg : Config) (cmd : BitVec 2) (density : Bool) : Bool :=
  if cmd = 0#2 then density
  else if cmd = 1#2 then cfg.densityOneSets
  else if cmd = 2#2 then !cfg.densityOneSets
  else !density

/-- A 0-to-1 change of a line; a repeated level is no edge (44 R119). -/
def risingEdge (old new : Bool) : Bool := !old && new

/-- The mode after a write to port 09 (41 R78). -/
def toggleMode : Mode → Mode
  | .f800 => .off
  | .off => .f800
  | .zero => .zero

/-- A line level placed at bit `k` of a byte (43 R100, 44 R115). -/
def bitAt (b : Bool) (k : Nat) : Byte := (BitVec.ofBool b).setWidth 8 <<< k

/-- The printer handshake capture (43 R100). -/
def captureByte (busy select : Bool) : Byte := bitAt busy 5 ||| bitAt select 4

/-- Whether a read of port FC finds the controller busy and asks for a wait (44 R115). -/
def fcBusy (cfg : Config) (irq drq : Bool) : Bool := cfg.fcBusyFault && !irq && !drq

/-- The byte of a port FC read: bit 7 and seven zeros (44 R115). -/
def fcStatusByte (cfg : Config) (irq : Bool) : Byte := bitAt (if cfg.fcIrqInverted then !irq else irq) 7

end Sys2Proof.Machine
end

