-- ==== Sys2Proof/Machine/Ops.lean ====
section
/-! DEFINITION. The operations the meanings share: reading and writing a region (10_state R19, R20), the binding function
and the rebind (41 R75, R76), the collaborators' entry points (R12, 10_state R29), the wait request and the raise of the
one fault (44 R121, 60 R127), the stall (60 R129), and what surrounds a step (30_encoding R60, 60 R133). There is no
return from the fault (60 R134). -/

namespace Sys2Proof.Machine

/-! ### Memory -/

/-- The known byte at an address, if it is listed. -/
def Memory.find : Memory → Nat → Option Byte
  | [], _ => none
  | (k, b) :: rest, a => if k = a then some b else Memory.find rest a

/-- Writing one byte, keeping the addresses strictly rising. -/
def Memory.write : Memory → Nat → Byte → Memory
  | [], a, v => [(a, v)]
  | (k, b) :: rest, a, v =>
    if a < k then (a, v) :: (k, b) :: rest
    else if a = k then (a, v) :: rest
    else (k, b) :: Memory.write rest a v

/-- The canonical form: every listed address at least `low`, strictly rising. -/
def Memory.risingFrom : Memory → Nat → Bool
  | [], _ => true
  | (k, _) :: rest, low => decide (low ≤ k) && Memory.risingFrom rest (k + 1)

def Memory.wf (m : Memory) : Bool := Memory.risingFrom m 0

/-- Every listed address is below `size`. -/
def Memory.within (m : Memory) (size : Nat) : Bool := m.all fun c => decide (c.1 < size)

/-- `ROM[i]` (10_state R19). -/
def State.romByte (s : State) (i : Nat) : Byte := (Memory.find s.rom i).getD (Config.romImage i)

/-- `RAM[i]` (10_state R20). -/
def State.ramByte (s : State) (i : Nat) : Byte := (Memory.find s.ram i).getD (Config.ramPowerOn s.ramEra i)

/-- Byte i of generic region k; a read-only region keeps what it was loaded with (20_memory R37, R43; log 17). -/
def State.otherByte (s : State) (k i : Nat) : Byte :=
  match s.regions[k]? with
  | none => Config.regionPowerOn 0 k i
  | some r => (Memory.find r.cells i).getD (Config.regionPowerOn (if r.writable then s.ramEra else 0) k i)

/-- `region[i]` (20_memory R37). -/
def State.regionByte (s : State) : RegionRef → Nat → Byte
  | .rom, i => s.romByte i
  | .ram, i => s.ramByte i
  | .other k, i => s.otherByte k i

/-- The size of a region in bytes (10_state R19, R20; 20_memory R37). -/
def State.regionSize (s : State) : RegionRef → Nat
  | .rom => romSize
  | .ram => ramSize s.cfg
  | .other k => match s.regions[k]? with
    | none => 0
    | some r => r.size

/-- `RAM[i] <- v` (10_state R20). -/
def State.writeRam (s : State) (i : Nat) (v : Byte) : State := { s with ram := Memory.write s.ram i v }

/-- A write into a generic region; into a read-only one it is discarded (20_memory R43). -/
def Region.write (r : Region) (i : Nat) (v : Byte) : Region :=
  if r.writable then { r with cells := Memory.write r.cells i v } else r

/-- `region[i] <- v` (20_memory R41); a write never reaches ROM (R43). -/
def State.writeRegion (s : State) (ref : RegionRef) (i : Nat) (v : Byte) : State :=
  match ref with
  | .rom => s
  | .ram => s.writeRam i v
  | .other k => { s with regions := s.regions.modify k (Region.write · i v) }

/-! ### The bank switch -/

/-- `Bind(mode, selector)`, the table of 41 R75. -/
def bind (cfg : Config) (mode : Mode) (sel : BitVec 3) : Windows :=
  match mode, inRange cfg sel with
  | .zero, true => ⟨.ram sel, .romMirror, .rom⟩
  | .zero, false => ⟨.detached, .romMirror, .rom⟩
  | .f800, true => ⟨.ram sel, .ram sel, .rom⟩
  | .f800, false => ⟨.detached, .detached, .rom⟩
  | .off, true => ⟨.ram sel, .ram sel, .ram sel⟩
  | .off, false => ⟨.detached, .detached, .detached⟩

/-- `Rebind()` (41 R76). -/
def State.rebind (s : State) : State := { s with win := bind s.cfg s.mode s.selector }

/-! ### Collaborators -/

/-- A call of an entry point or a line driven. -/
def State.emit (s : State) (c : Call) : State := { s with calls := s.calls ++ [c] }

/-- The byte a collaborator answers the next read with: what the environment supplies, else `draw(8)` (10_state R29). -/
def State.reply (s : State) : Byte := s.chipBytes.head?.getD (Config.free8 s.draws)

/-- The state after a collaborator's byte has been taken. -/
def State.afterReply (s : State) : State :=
  { s with chipBytes := s.chipBytes.tail, draws := if s.chipBytes.isEmpty then s.draws + 1 else s.draws }

/-- `C.read(r)` (R12): the call is made and the collaborator's byte taken. -/
def State.chipRead (s : State) (c : Chip) (r : Nat) : State := s.afterReply.emit (.read c r)

/-- The data a read returns (R60). -/
def State.answer (s : State) (d : BusData) : State := { s with result := some d }

/-- An operation of xor100; it does not exist on tr175 (R3, R34; log 16). -/
def onXor100 (s : State) (run : State → Result) : Result :=
  match s.cfg.machine with
  | .xor100 => run s
  | .tr175 => .refused (.notOnThisMachine .tr175)

/-- An operation of the generic dispatcher; "On xor100 these operations do not exist" (40 R74). -/
def onTr175 (s : State) (run : State → Result) : Result :=
  match s.cfg.machine with
  | .tr175 => run s
  | .xor100 => .refused (.notOnThisMachine .xor100)

/-- A port read that returns one byte and changes nothing (R60). -/
def answerByte (v : Byte) (s : State) : Result := .next (s.answer (.byte v))

/-- A port read that returns what the collaborator answers, through `f` (42 R83, 44 R111). -/
def passRead (c : Chip) (r : Nat) (f : Byte → Byte) (s : State) : Result :=
  .next ((s.chipRead c r).answer (.byte (f s.reply)))

/-- A port write handed to a collaborator (42 R84, 44 R112). -/
def passWrite (c : Chip) (r : Nat) (v : Byte) (s : State) : Result := .next (s.emit (.write c r v))

/-! ### The fault and the stall -/

/-- `raise Unsupported(WaitState)` (60 R127): the fault is set with its cause, the step ends, the state is kept. -/
def raiseUnsupported (cause : WaitCause) (s : State) : Result :=
  .fault (.unsupportedWaitState cause { s with fault := some cause })

/-- `Cpu.wait <- 1` (44 R121, 60 R129). -/
def State.driveWait (s : State) : State := { s.emit (.cpuWait true) with cpuWait := true }

/-- `WaitRequest()` (44 R121), and the rest of the rule where the request is no fault. -/
def waitRequest (cause : WaitCause) (s : State) (rest : State → Result) : Result :=
  match s.cfg.hostWait with
  | .unsupported => raiseUnsupported cause s
  | .stall => rest s.driveWait

/-- A floppy line event reaches a stalled CPU: whether the stall ends is open (60 R129; log 15). -/
def State.stallMayEnd (s : State) : State :=
  { s with cpuWait := s.cpuWait && Config.free1 s.draws, draws := if s.cpuWait then s.draws + 1 else s.draws }

/-! ### Host operations -/

/-- What a fresh instance knows of a generic region: nothing of a writable one (log 17). -/
def Region.fresh (r : Region) : Region := if r.writable then { r with cells := [] } else r

/-- A fresh instance of the machine (70 R144). -/
def State.powerOn (s : State) : State :=
  State.rebind
    { s with
      mode := .zero
      selector := s.cfg.selectorPowerOn
      irq := false
      drq := false
      density := false
      selectedDrive := none
      motorOn := ⟨false, false, false, false⟩
      centBusy := false
      centSelect := false
      centData := Config.free8 s.draws
      centStrobe := Config.free1 s.draws
      baudA := Config.free4 s.draws
      baudB := Config.free4 (s.draws + 1)
      ram := []
      ramEra := s.draws
      regions := s.regions.map Region.fresh
      fault := none
      cpuWait := false
      draws := s.draws + 2 }

/-- The persisted fields, read between steps (70 R148). -/
def State.save (s : State) : Persisted :=
  ⟨s.mode, s.selector, s.irq, s.drq, s.density, s.centBusy, s.centSelect⟩

/-- Persisted state loaded into an instance (70 R149). -/
def State.load (s : State) (p : Persisted) : State :=
  State.rebind
    { s with
      mode := p.mode
      selector := p.selector
      irq := p.irq
      drq := p.drq
      density := p.density
      centBusy := p.busy
      centSelect := p.select }

/-! ### Around a step -/

/-- The machine turns to the next item: the rest of the sequence remains, and the answers of the last step are gone. -/
def State.accept (s : State) (rest : List BusItem) : State := { s with inputs := rest, result := none, calls := [] }

/-- A transaction of the bus master, not an event (R60). -/
def BusItem.isTransaction (x : BusItem) : Bool := x.format != .EV

/-- What keeps a step from being taken: a fault that is set, unless a fresh instance is powered on (60 R133, R134); a CPU
held by the wait request (60 R129). -/
def blocked (s : State) (x : BusItem) : Option Result :=
  match s.fault with
  | some cause => if x = .ev .powerOn then none else some (.fault (.alreadyFaulted cause))
  | none => if s.cpuWait && BusItem.isTransaction x then some (.refused .cpuStalled) else none

/-- The state in which the next step takes one given item (log 2, log 12): the item stands first in the sequence, the
machine is the one the item is a transaction of, and no fault or stall stands in the way. -/
def State.withItem (s : State) (m : MachineKind) (x : BusItem) : State :=
  { s with cfg := { s.cfg with machine := m }, inputs := x :: s.inputs, fault := none, cpuWait := false }

end Sys2Proof.Machine
end

