-- ==== Sys2Proof/Machine/BankSwitch.lean ====
section
/-! DEFINITION. The port operations of the Bank-Switch Controller (41_bank_switch_ops R77 to R79). -/

namespace Sys2Proof.Machine

/-- `OUT.BANKSEL` (41 R77). -/
def execOutBanksel (v : Byte) (s : State) : Result :=
  onXor100 s fun s => .next { s with selector := selField v }.rebind

/-- `OUT.EPROM.TOGGLE` (41 R78): the data byte is not used. -/
def execOutEpromToggle (_v : Byte) (s : State) : Result :=
  onXor100 s fun s => .next { s with mode := toggleMode s.mode }.rebind

/-- `IN.EPROM.F800` (41 R79): the read changes the mode and returns the sentinel. -/
def execInEpromF800 (s : State) : Result :=
  onXor100 s fun s => answerByte 0xFF#8 { s with mode := .f800 }.rebind

end Sys2Proof.Machine
end

