-- ==== Sys2Proof/Machine/Floppy.lean ====
section
/-! DEFINITION. The floppy controller ports, the Floppy Interaction Layer and the controller's signal events
(44_floppy_ops R111 to R121). -/

namespace Sys2Proof.Machine

/-- `IN.FDC r` (44 R111): the one's complement of what the controller drives. -/
def execInFdc (r : BitVec 2) (s : State) : Result := onXor100 s (passRead .fdc r.toNat invert)

/-- `OUT.FDC r` (44 R112). -/
def execOutFdc (r : BitVec 2) (v : Byte) (s : State) : Result := onXor100 s (passWrite .fdc r.toNat (invert v))

/-- `IN.FDC.WAIT` (44 R115). -/
def execInFdcWait (s : State) : Result :=
  onXor100 s fun s =>
    if fcBusy s.cfg s.irq s.drq then waitRequest .busyRead s fun s => answerByte (fcStatusByte s.cfg s.irq) s
    else answerByte (fcStatusByte s.cfg s.irq) s

/-- The motors after a drive selection: only the drive that ends up selected is started (44 R116). -/
def startSelected (m : Motors) : Option Drive → Motors
  | none => m
  | some d => m.start d

/-- `OUT.FDC.DSEL` (44 R116). -/
def execOutFdcDsel (v : Byte) (s : State) : Result :=
  onXor100 s fun s =>
    .next ({ s with
      selectedDrive := selectDrive (driveField v)
      motorOn := startSelected s.motorOn (selectDrive (driveField v)) }.emit
        (.fdcSetDrive (selectDrive (driveField v))))

/-- `OUT.FDC.DENS` (44 R117). -/
def execOutFdcDens (v : Byte) (s : State) : Result :=
  onXor100 s fun s =>
    .next ({ s with density := nextDensity s.cfg (densityField v) s.density }.emit
      (.fdcDensity (nextDensity s.cfg (densityField v) s.density)))

/-- `EV.FDC.IRQ b` (44 R119): the state first, then the request. -/
def execEvFdcIrq (b : Bool) (s : State) : Result :=
  onXor100 s fun s =>
    if risingEdge s.irq b then waitRequest .irqRise { s.stallMayEnd with irq := b } .next
    else .next { s.stallMayEnd with irq := b }

/-- `EV.FDC.DRQ b` (44 R120). -/
def execEvFdcDrq (b : Bool) (s : State) : Result :=
  onXor100 s fun s =>
    if risingEdge s.drq b then waitRequest .drqRise { s.stallMayEnd with drq := b } .next
    else .next { s.stallMayEnd with drq := b }

end Sys2Proof.Machine
end

