-- ==== Sys2Proof/Machine/HostEvents.lean ====
section
/-! DEFINITION. The host's events (70_reset_and_hazards R144, R145, R149). -/

namespace Sys2Proof.Machine

/-- `EV.POWERON` (70 R144). -/
def execEvPoweron (s : State) : Result := .next s.powerOn

/-- `EV.RESET` (70 R145): the mode, and nothing else. -/
def execEvReset (s : State) : Result := .next { s with mode := .zero }.rebind

/-- `EV.RESTORE` (70 R149): loading `irq` and `drq` is no edge. -/
def execEvRestore (p : Persisted) (s : State) : Result := .next (s.load p)

end Sys2Proof.Machine
end

