-- ==== Sys2Proof/Machine/Dispatcher.lean ====
section
/-! DEFINITION. The Address Dispatcher (20_memory R35 to R55): lookup in a table, reads and writes through it, handlers
and lanes, rebinding, the tables of xor100, and the address translation in closed form. -/

namespace Sys2Proof.Machine

/-- `e.start <= a <= e.end` (R39). -/
def Entry.covers (e : Entry) (a : Nat) : Bool := decide (e.start ≤ a) && decide (a ≤ e.stop)

/-- `Lookup(k, a)` in the table of kind k (R39). In a table that keeps R36 the entry is unique; in one that overlaps, is
unsorted or has odd bounds (R36(a), (b), (d)), of which the spec gives no meaning, the first covering entry in list order
answers (log 19, DESIGN CHOICE). -/
def lookup (t : List Entry) (a : Nat) : Option Entry := t.find? (Entry.covers · a)

/-- The index into the region that address a of a `Direct` entry stands for (R37). -/
def directIndex (base offset amask a : Nat) : Nat := offset + ((a - base) &&& amask)

/-- `HandlerRead(e, a)` (R44, R45): the byte and the state after it. -/
def handlerRead (h : HandlerRef) (lanes : Lanes) (idle : Byte) (base a : Nat) (s : State) : Byte × State :=
  if lanesAnswer s.cfg lanes a && h.canRead then (s.reply, s.chipRead (.handler h.id) (handlerReg lanes base a))
  else (idle, s)

/-- `HandlerWrite(e, a, v)` (R44, R45). -/
def handlerWrite (h : HandlerRef) (lanes : Lanes) (base a : Nat) (v : Byte) (s : State) : State :=
  if lanesAnswer s.cfg lanes a && h.canWrite then s.emit (.write (.handler h.id) (handlerReg lanes base a) v) else s

/-- `MemRead(a, 1)` through a table (R40); `none` where no entry covers the address (R36(c)) or the
index is outside its region (R37) (log 19, DESIGN CHOICE). -/
def memReadByte (t : List Entry) (a : Nat) (s : State) : Option (Byte × State) :=
  match lookup t a with
  | none => none
  | some e => match e.target with
    | .direct ref offset amask =>
      if directIndex e.base offset amask a < s.regionSize ref then
        some (s.regionByte ref (directIndex e.base offset amask a), s)
      else none
    | .handler h lanes idle => some (handlerRead h lanes idle e.base a s)
    | .unmapped idle => some (idle.byte, s)

/-- `MemWrite(a, 1, v)` through a table (R41); `none` where no entry covers the address (R36(c)) or
the index is outside its region (R37) (log 19, DESIGN CHOICE). -/
def memWriteByte (t : List Entry) (a : Nat) (v : Byte) (s : State) : Option State :=
  match lookup t a with
  | none => none
  | some e => match e.target with
    | .direct ref offset amask =>
      if directIndex e.base offset amask a < s.regionSize ref then
        some (s.writeRegion ref (directIndex e.base offset amask a) v)
      else none
    | .handler h lanes _ => some (handlerWrite h lanes e.base a v s)
    | .unmapped _ => some s

/-- `MemRead(a, 2)`: the lower address first (R46). -/
def memReadWord (t : List Entry) (a : Nat) (s : State) : Option (Word16 × State) :=
  match memReadByte t a s with
  | none => none
  | some (b0, s1) => match memReadByte t (a + 1) s1 with
    | none => none
    | some (b1, s2) => some (joinWord s.cfg b0 b1, s2)

/-- `MemWrite(a, 2, v)`: the lower address first (R46). -/
def memWriteWord (t : List Entry) (a : Nat) (v : Word16) (s : State) : Option State :=
  match memWriteByte t a (splitWord s.cfg v).1 s with
  | none => none
  | some s1 => memWriteByte t (a + 1) (splitWord s.cfg v).2 s1

/-- `MemRead(a, n)` (R40, R46). -/
def memRead (t : List Entry) (a : Nat) (n : Width) (s : State) : Option (BusData × State) :=
  match n with
  | .byte => (memReadByte t a s).map fun p => (.byte p.1, p.2)
  | .word => (memReadWord t a s).map fun p => (.word p.1, p.2)

/-- `MemWrite(a, n, v)` (R41, R46). -/
def memWrite (t : List Entry) (a : Nat) (d : BusData) (s : State) : Option State :=
  match d with
  | .byte v => memWriteByte t a v s
  | .word v => memWriteWord t a v s

/-! ### Rebinding and the tables of xor100 -/

/-- The part of an entry below `lo`. -/
def Entry.below (lo : Nat) (e : Entry) : Option Entry :=
  if e.stop < lo then some e
  else if e.start < lo then some { e with stop := lo - 1 }
  else none

/-- The part of an entry above `hi`; its target still counts from the entry's base. -/
def Entry.above (hi : Nat) (e : Entry) : Option Entry :=
  if hi < e.start then some e
  else if hi < e.stop then some { e with start := hi + 1 }
  else none

/-- `RebindRange(k, lo, hi, target)` on the table of kind k (R51): `new` is the target's entries from lo to hi. -/
def rebindRange (t : List Entry) (lo hi : Nat) (new : List Entry) : List Entry :=
  t.filterMap (Entry.below lo) ++ new ++ t.filterMap (Entry.above hi)

/-- `target(Ram(s))` on an entry (R52). -/
def ramTarget (bank : BitVec 3) (start : Nat) : Target := .direct .ram (bank.toNat * bankSize + start) 0xFFFF

/-- The entries of `target(W)` (R52). -/
def writeEntries (cfg : Config) (w : WBinding) : List Entry :=
  [Entry.span 0x0000 cfg.writeWindowEnd.addr
    (match w with
     | .ram bank => ramTarget bank 0
     | .detached => .unmapped cfg.idleMem)]

/-- The entries of `target(RL)` (R52). -/
def lowEntries (cfg : Config) : RLBinding → List Entry
  | .romMirror =>
    if cfg.zeroLowMirror then [Entry.span 0x0000 0xF7FF (.direct .rom 0 0x07FF)]
    else [Entry.span 0x0000 0x07FF (.direct .rom 0 0xFFFF), Entry.span 0x0800 0xF7FF (.unmapped cfg.idleMem)]
  | .ram bank => [Entry.span 0x0000 0xF7FF (ramTarget bank 0)]
  | .detached => [Entry.span 0x0000 0xF7FF (.unmapped cfg.idleMem)]

/-- The entries of `target(RH)` (R52). -/
def highEntries (cfg : Config) (rh : RHBinding) : List Entry :=
  [Entry.span 0xF800 0xFFFF
    (match rh with
     | .rom => .direct .rom 0 0xFFFF
     | .ram bank => ramTarget bank 0xF800
     | .detached => .unmapped cfg.idleMem)]

/-- `T[read]` of xor100 (R52). -/
def xor100ReadTable (cfg : Config) (win : Windows) : List Entry := lowEntries cfg win.rl ++ highEntries cfg win.rh

/-- `T[write]` of xor100 (R52). -/
def xor100WriteTable (cfg : Config) (win : Windows) : List Entry :=
  writeEntries cfg win.w ++
    (match cfg.writeWindowEnd with
     | .atFFFF => []
     | .atF7FF => [Entry.span 0xF800 0xFFFF (.unmapped cfg.idleMem)])

/-- The memory tables of the machine (R52, R54). -/
def State.tables (s : State) : DispatchTables :=
  match s.cfg.machine with
  | .xor100 => ⟨xor100ReadTable s.cfg s.win, xor100WriteTable s.cfg s.win⟩
  | .tr175 => s.cfg.tr175Table

/-- The dispatcher's part of `Rebind()` (41 R76): the three windows are rebound, nothing else of the tables. -/
def rebindTables (cfg : Config) (t : DispatchTables) (win : Windows) : DispatchTables :=
  ⟨rebindRange (rebindRange t.read 0x0000 0xF7FF (lowEntries cfg win.rl)) 0xF800 0xFFFF (highEntries cfg win.rh),
   rebindRange t.write 0x0000 cfg.writeWindowEnd.addr (writeEntries cfg win.w)⟩

/-! ### Address translation in closed form -/

/-- A physical byte, or none. -/
inductive Phys where
  | rom (i : Nat)
  | ram (i : Nat)
  | none
deriving DecidableEq, Repr

/-- `Phys(read, a)` (R55; the mode ZERO line without the mirror by R52). -/
def physRead (cfg : Config) (mode : Mode) (sel : BitVec 3) (a : Addr16) : Phys :=
  match mode with
  | .zero =>
    if cfg.zeroLowMirror || decide (a.toNat ≤ 0x07FF) || decide (0xF800 ≤ a.toNat) then .rom (a.toNat % romSize)
    else .none
  | .f800 =>
    if 0xF800 ≤ a.toNat then .rom (a.toNat - 0xF800)
    else if sel.toNat < cfg.bankCount.val then .ram (sel.toNat * 0x10000 + a.toNat) else .none
  | .off => if sel.toNat < cfg.bankCount.val then .ram (sel.toNat * 0x10000 + a.toNat) else .none

/-- `Phys(write, a)` (R55). -/
def physWrite (cfg : Config) (sel : BitVec 3) (a : Addr16) : Phys :=
  if a.toNat ≤ cfg.writeWindowEnd.addr ∧ sel.toNat < cfg.bankCount.val then .ram (sel.toNat * 0x10000 + a.toNat)
  else .none

/-- The byte a physical address holds; none reads as the idle value (R38). -/
def State.physByte (s : State) : Phys → Byte
  | .rom i => s.romByte i
  | .ram i => s.ramByte i
  | .none => s.cfg.idleMem.byte

end Sys2Proof.Machine
end

