-- ==== Sys2Proof/Machine/MemoryWindow.lean ====
section
/-! DEFINITION. The memory-space operations (40_memory_window_ops R71 to R74). -/

namespace Sys2Proof.Machine

/-- The byte of a read in the high window (40 R71). -/
def readHigh (s : State) (a : Addr16) : Byte :=
  match s.win.rh with
  | .rom => s.romByte (romIndex a)
  | .ram bank => s.ramByte (physRam bank a)
  | .detached => s.cfg.idleMem.byte

/-- The byte of a read in the low window (40 R72). -/
def readLow (s : State) (a : Addr16) : Byte :=
  match s.win.rl with
  | .romMirror =>
    if s.cfg.zeroLowMirror || decide (a.toNat ≤ 0x07FF) then s.romByte (romIndex a) else s.cfg.idleMem.byte
  | .ram bank => s.ramByte (physRam bank a)
  | .detached => s.cfg.idleMem.byte

/-- The RAM byte a write at `a` is stored in, if any (40 R73). -/
def writeTarget (s : State) (a : Addr16) : Option Nat :=
  if a.toNat ≤ s.cfg.writeWindowEnd.addr then
    match s.win.w with
    | .ram bank => some (physRam bank a)
    | .detached => none
  else none

/-- `RD.HI` (40 R71). -/
def execRdHi (a : Addr16) (s : State) : Result := onXor100 s fun s => answerByte (readHigh s a) s

/-- `RD.LO` (40 R72). -/
def execRdLo (a : Addr16) (s : State) : Result := onXor100 s fun s => answerByte (readLow s a) s

/-- `WR.WIN` (40 R73). -/
def execWrWin (a : Addr16) (v : Byte) (s : State) : Result :=
  onXor100 s fun s => match writeTarget s a with
    | some i => .next (s.writeRam i v)
    | none => .next s

/-- `RD.GEN` (40 R74). A 16-bit access at an odd address is refused (20_memory R48). -/
def execRdGen (a : Addr24) (n : Width) (s : State) : Result :=
  onTr175 s fun s =>
    if aligned a n then
      match memRead s.tables.read a.toNat n s with
      | some (d, s') => .next (s'.answer d)
      | none => .refused (.illegalTable a.toNat)
    else .refused (.misalignedWord a.toNat)

/-- `WR.GEN` (40 R74). -/
def execWrGen (a : Addr24) (d : BusData) (s : State) : Result :=
  onTr175 s fun s =>
    if aligned a d.width then
      match memWrite s.tables.write a.toNat d s with
      | some s' => .next s'
      | none => .refused (.illegalTable a.toNat)
    else .refused (.misalignedWord a.toNat)

end Sys2Proof.Machine
end

