-- ==== Sys2Proof/Machine/Parallel.lean ====
section
/-! DEFINITION. The parallel port, the counter/timer channels and their signal events (43_parallel_timer_ops R96 to
R110). -/

namespace Sys2Proof.Machine

/-- `OUT.PPI.A` (43 R96): the latch the printer reads. -/
def execOutPpiA (v : Byte) (s : State) : Result :=
  onXor100 s fun s => passWrite .ppi 0 v { s with centData := v }

/-- `IN.PPI.A` (43 R97). -/
def execInPpiA (s : State) : Result := onXor100 s (passRead .ppi 0 id)

/-- `OUT.PPI.B` (43 R98): bit 0 drives the strobe. -/
def execOutPpiB (v : Byte) (s : State) : Result :=
  onXor100 s fun s =>
    .next (({ s with centStrobe := strobeField v }.emit (.write .ppi 1 v)).emit (.printerStrobe (strobeField v)))

/-- `IN.PPI.B` (43 R99). -/
def execInPpiB (s : State) : Result := onXor100 s (passRead .ppi 1 id)

/-- `IN.PPI.C` (43 R100): the printer handshake capture. -/
def execInPpiC (s : State) : Result := onXor100 s fun s => answerByte (captureByte s.centBusy s.centSelect) s

/-- `OUT.PPI.C` (43 R101). -/
def execOutPpiC (v : Byte) (s : State) : Result := onXor100 s (passWrite .ppi 2 v)

/-- `IN.PPI.CTRL` (43 R102). -/
def execInPpiCtrl (s : State) : Result := onXor100 s (passRead .ppi 3 id)

/-- `OUT.PPI.CTRL` (43 R103). -/
def execOutPpiCtrl (v : Byte) (s : State) : Result := onXor100 s (passWrite .ppi 3 v)

/-- `IN.CTC c` (43 R104). -/
def execInCtc (c : BitVec 2) (s : State) : Result := onXor100 s (passRead .ctc c.toNat id)

/-- `OUT.CTC c` (43 R105). -/
def execOutCtc (c : BitVec 2) (v : Byte) (s : State) : Result := onXor100 s (passWrite .ctc c.toNat v)

/-- `EV.CENT.BUSY b` (43 R106). -/
def execEvCentBusy (b : Bool) (s : State) : Result := onXor100 s fun s => .next { s with centBusy := b }

/-- `EV.CENT.SELECT b` (43 R107). -/
def execEvCentSelect (b : Bool) (s : State) : Result := onXor100 s fun s => .next { s with centSelect := b }

/-- `EV.CTC.ZC c b` (43 R108): the zero-output lines are no-ops. -/
def execEvCtcZc (_c : BitVec 2) (_b : Bool) (s : State) : Result := onXor100 s .next

end Sys2Proof.Machine
end

