-- ==== Sys2Proof/Machine/Serial.lean ====
section
/-! DEFINITION. The serial controller ports, the baud DIP switch and the baud-rate port, and the line event
(42_serial_baud_ops R83 to R95). -/

namespace Sys2Proof.Machine

/-- `IN.SERA.DATA` (42 R83). -/
def execInSeraData (s : State) : Result := onXor100 s (passRead .serA 0 id)

/-- `OUT.SERA.DATA` (42 R84). -/
def execOutSeraData (v : Byte) (s : State) : Result := onXor100 s (passWrite .serA 0 v)

/-- `IN.SERA.STAT` (42 R85). -/
def execInSeraStat (s : State) : Result := onXor100 s (passRead .serA 1 id)

/-- `OUT.SERA.CTRL` (42 R86). -/
def execOutSeraCtrl (v : Byte) (s : State) : Result := onXor100 s (passWrite .serA 1 v)

/-- `IN.SERB.DATA` (42 R87). -/
def execInSerbData (s : State) : Result := onXor100 s (passRead .serB 0 id)

/-- `OUT.SERB.DATA` (42 R88). -/
def execOutSerbData (v : Byte) (s : State) : Result := onXor100 s (passWrite .serB 0 v)

/-- `IN.SERB.STAT` (42 R89). -/
def execInSerbStat (s : State) : Result := onXor100 s (passRead .serB 1 id)

/-- `OUT.SERB.CTRL` (42 R90). -/
def execOutSerbCtrl (v : Byte) (s : State) : Result := onXor100 s (passWrite .serB 1 v)

/-- `IN.DIP` (42 R91). -/
def execInDip (s : State) : Result := onXor100 s fun s => answerByte s.cfg.dipBaud s

/-- `OUT.BAUD` (42 R92): both codes in the one step. -/
def execOutBaud (v : Byte) (s : State) : Result :=
  onXor100 s fun s =>
    .next (({ s with baudA := codeAField v, baudB := codeBField v }.emit (.brgSetA (codeAField v))).emit
      (.brgSetB (codeBField v)))

/-- `EV.SER.LINE` (42 R93): the line goes straight to its controller; the block captures none. -/
def execEvSerLine (_ch : Channel) (_line : SerLine) (_b : Bool) (s : State) : Result := onXor100 s .next

end Sys2Proof.Machine
end

