-- ==== Sys2Proof/Machine/Unmapped.lean ====
section
/-! DEFINITION. The unmapped port operations (45_unmapped_ops R122 to R125). -/

namespace Sys2Proof.Machine

/-- `IN.UNMAPPED` (45 R122): the value does not depend on the port. -/
def execInUnmapped (_p : Byte) (s : State) : Result := onXor100 s fun s => answerByte s.cfg.idleIo.byte s

/-- `OUT.UNMAPPED` (45 R123): discarded. -/
def execOutUnmapped (_p _v : Byte) (s : State) : Result := onXor100 s .next

end Sys2Proof.Machine
end

