-- ==== Sys2Proof/Machine/Dispatch.lean ====
section
/-! DEFINITION. One arm per operation, each a direct call of its meaning. -/

namespace Sys2Proof.Machine

def exec (i : Instr) (s : State) : Host.Outcome State Fault Refusal :=
  match i with
  | .rdHi a => Sys2Proof.Machine.execRdHi a s
  | .rdLo a => Sys2Proof.Machine.execRdLo a s
  | .wrWin a v => Sys2Proof.Machine.execWrWin a v s
  | .rdGen a n => Sys2Proof.Machine.execRdGen a n s
  | .wrGen a d => Sys2Proof.Machine.execWrGen a d s
  | .outBanksel v => Sys2Proof.Machine.execOutBanksel v s
  | .outEpromToggle v => Sys2Proof.Machine.execOutEpromToggle v s
  | .inEpromF800 => Sys2Proof.Machine.execInEpromF800 s
  | .inSeraData => Sys2Proof.Machine.execInSeraData s
  | .outSeraData v => Sys2Proof.Machine.execOutSeraData v s
  | .inSeraStat => Sys2Proof.Machine.execInSeraStat s
  | .outSeraCtrl v => Sys2Proof.Machine.execOutSeraCtrl v s
  | .inSerbData => Sys2Proof.Machine.execInSerbData s
  | .outSerbData v => Sys2Proof.Machine.execOutSerbData v s
  | .inSerbStat => Sys2Proof.Machine.execInSerbStat s
  | .outSerbCtrl v => Sys2Proof.Machine.execOutSerbCtrl v s
  | .inDip => Sys2Proof.Machine.execInDip s
  | .outBaud v => Sys2Proof.Machine.execOutBaud v s
  | .inPpiA => Sys2Proof.Machine.execInPpiA s
  | .outPpiA v => Sys2Proof.Machine.execOutPpiA v s
  | .inPpiB => Sys2Proof.Machine.execInPpiB s
  | .outPpiB v => Sys2Proof.Machine.execOutPpiB v s
  | .inPpiC => Sys2Proof.Machine.execInPpiC s
  | .outPpiC v => Sys2Proof.Machine.execOutPpiC v s
  | .inPpiCtrl => Sys2Proof.Machine.execInPpiCtrl s
  | .outPpiCtrl v => Sys2Proof.Machine.execOutPpiCtrl v s
  | .inCtc c => Sys2Proof.Machine.execInCtc c s
  | .outCtc c v => Sys2Proof.Machine.execOutCtc c v s
  | .inFdc r => Sys2Proof.Machine.execInFdc r s
  | .outFdc r v => Sys2Proof.Machine.execOutFdc r v s
  | .inFdcWait => Sys2Proof.Machine.execInFdcWait s
  | .outFdcDsel v => Sys2Proof.Machine.execOutFdcDsel v s
  | .outFdcDens v => Sys2Proof.Machine.execOutFdcDens v s
  | .inUnmapped p => Sys2Proof.Machine.execInUnmapped p s
  | .outUnmapped p v => Sys2Proof.Machine.execOutUnmapped p v s
  | .evPoweron => Sys2Proof.Machine.execEvPoweron s
  | .evReset => Sys2Proof.Machine.execEvReset s
  | .evRestore p => Sys2Proof.Machine.execEvRestore p s
  | .evFdcIrq b => Sys2Proof.Machine.execEvFdcIrq b s
  | .evFdcDrq b => Sys2Proof.Machine.execEvFdcDrq b s
  | .evCentBusy b => Sys2Proof.Machine.execEvCentBusy b s
  | .evCentSelect b => Sys2Proof.Machine.execEvCentSelect b s
  | .evCtcZc c b => Sys2Proof.Machine.execEvCtcZc c b s
  | .evSerLine ch line b => Sys2Proof.Machine.execEvSerLine ch line b s

end Sys2Proof.Machine
end

