-- ==== Sys2Proof/Machine/Step.lean ====
section
/-! DEFINITION. One step of the block (30_encoding R60): the next item of the sequence is taken, decoded and performed to
completion. -/

namespace Sys2Proof.Machine

def step (s : State) : Host.Outcome State Fault Refusal :=
  match s.inputs with
  | [] => .refused .noInput
  | x :: rest => match blocked s x with
    | some stop => stop
    | none => match decode s.cfg.machine x with
      | .error r => .refused (.undecodable r)
      | .ok i => exec i (s.accept rest)

/-- The state whose next step takes the transaction a table word stands for (log 2, log 12, log 13). -/
def State.withFetchWord (s : State) (nbits w : Nat) : State := s.withItem (tableItem nbits w).1 (tableItem nbits w).2

end Sys2Proof.Machine
end

