-- ==== Sys2Proof/Safety.lean ====
section
/-! DEFINITION. What a safe run is, and the invariants of the hardware that statements use: the binding cache is up to date
(10_state R18), every region's bytes stay inside it and in canonical form, and a generic table is a table of this hardware
(20_memory R36, R37). -/

namespace Sys2Proof.Machine

/-- "A state with `fault` set is never a good final state" (10_state R28, 60 R127). -/
def State.Good (s : State) : Prop := s.fault = none

/-- A run of `k` steps that ends in a good state. -/
def SafeRun (k : Nat) (s : State) : Prop := ∃ t, Sys2Proof.core.run k s = .next t ∧ State.Good t

/-- `(W, RL, RH) = Bind(mode, selector)` (10_state R18). -/
def State.Coherent (s : State) : Prop := s.win = bind s.cfg s.mode s.selector

/-- A region's known bytes are in canonical form and inside the region. -/
def Region.Wf (r : Region) : Prop := Memory.wf r.cells = true ∧ Memory.within r.cells r.size = true

/-- Every region's known bytes are in canonical form and inside the region (10_state R19, R20). -/
def State.MemoryWf (s : State) : Prop :=
  (Memory.wf s.rom = true ∧ Memory.within s.rom romSize = true) ∧
  (Memory.wf s.ram = true ∧ Memory.within s.ram (ramSize s.cfg) = true) ∧
  ∀ r ∈ s.regions, Region.Wf r

/-- What every step keeps. -/
def State.Inv (s : State) : Prop := s.Coherent ∧ s.MemoryWf

/-- Every byte of every region reads as before. -/
def SameBytes (s t : State) : Prop :=
  (∀ i, t.romByte i = s.romByte i) ∧ (∀ i, t.ramByte i = s.ramByte i) ∧ ∀ k i, t.otherByte k i = s.otherByte k i

/-- A table covers the addresses from `lo` up to `top` in order, each exactly once (20_memory R36(a) to (c)). -/
def Tiles : List Entry → Nat → Nat → Prop
  | [], lo, top => lo = top + 1
  | e :: rest, lo, top => e.start = lo ∧ e.start ≤ e.stop ∧ e.stop ≤ top ∧ Tiles rest (e.stop + 1) top

/-- An entry's offsets count from its start and a `Direct` entry stays inside its region (20_memory R35, R37). -/
def Entry.Legal (s : State) (e : Entry) : Prop :=
  e.base = e.start ∧
  ∀ ref offset amask, e.target = .direct ref offset amask →
    ∀ a, e.start ≤ a → a ≤ e.stop → directIndex e.base offset amask a < s.regionSize ref

/-- Every `start` is even and every `end` odd (20_memory R36(d)). -/
def Entry.EvenOdd (e : Entry) : Prop := e.start % 2 = 0 ∧ e.stop % 2 = 1

/-- Whether a region may be written (10_state R19, R20). -/
def State.regionWritable (s : State) : RegionRef → Bool
  | .rom => false
  | .ram => true
  | .other k => match s.regions[k]? with
    | none => false
    | some r => r.writable

/-- The region byte a one-byte write through a table stores to: the index of R37 in the entry the address is looked up to;
none where the region is read-only (R43), or the entry is a handler or unmapped, or there is no entry (20_memory R41). -/
def State.storedAt (s : State) (t : List Entry) (a : Nat) : Option (RegionRef × Nat) :=
  match lookup t a with
  | none => none
  | some e => match e.target with
    | .direct ref offset amask =>
      if s.regionWritable ref then some (ref, directIndex e.base offset amask a) else none
    | .handler _ _ _ => none
    | .unmapped _ => none

/-- No entry of `T[write]` has a target `Direct` on a read-only region (20_memory R36(e)). -/
def Entry.WriteLegal (s : State) (e : Entry) : Prop :=
  ∀ ref offset amask, e.target = .direct ref offset amask → s.regionWritable ref = true

/-- The tables are tables of this hardware over a space whose last address is `top` (20_memory R36, R37). -/
def State.LegalTables (s : State) (t : DispatchTables) (top : Nat) : Prop :=
  (Tiles t.read 0 top ∧ ∀ e ∈ t.read, Entry.Legal s e) ∧
  Tiles t.write 0 top ∧ ∀ e ∈ t.write, Entry.Legal s e ∧ Entry.WriteLegal s e

/-- `TR175_TABLE` is legal (20_memory R54), the bounds of its entries even and odd (R36(d)). A handler
entry with lanes `ALL` is let in, and runs as `BOTH` (log 28, DESIGN CHOICE). -/
def State.LegalTr175 (s : State) : Prop :=
  s.LegalTables s.cfg.tr175Table 0xFFFFFF ∧
  (∀ e ∈ s.cfg.tr175Table.read, Entry.EvenOdd e) ∧ ∀ e ∈ s.cfg.tr175Table.write, Entry.EvenOdd e

end Sys2Proof.Machine
end

