-- ==== Sys2Proof/Certificates/Slice0/Obligations.lean ====
section
/-! DEFINITION. The statements about the block. A statement about an operation gives the whole next state as a change of
the state before it, so it is also the operation's frame and says where the operation completes. "Exactly" in a docstring
means that equality. The log entries named are rows of notes/assumptions. -/

open Sys2Proof Sys2Proof.Machine

/-! ### Ports that pass through to a collaborator -/

/-- 42 R83 to R90 (decision D15: which port is data and which status): a serial port read calls the controller's read entry
point and returns its byte unchanged (the environment's next collaborator byte or a free value, log 4); a serial port write
hands its byte to the controller's register; neither changes any state of the block. -/
def Obligations.SerialPortsPassThrough : Prop :=
  ∀ (s : State) (v : Byte) (i o : Instr) (c : Chip) (r : Nat), s.cfg.machine = .xor100 →
    (i, o, c, r) ∈ [(Instr.inSeraData, Instr.outSeraData v, Chip.serA, 0), (.inSeraStat, .outSeraCtrl v, .serA, 1),
      (.inSerbData, .outSerbData v, .serB, 0), (.inSerbStat, .outSerbCtrl v, .serB, 1)] →
    exec i s = .next { s with
      result := some (.byte s.reply)
      calls := s.calls ++ [.read c r]
      chipBytes := s.chipBytes.tail
      draws := if s.chipBytes.isEmpty then s.draws + 1 else s.draws } ∧
    exec o s = .next { s with calls := s.calls ++ [.write c r v] }

/-- 43 R97, R99, R101 to R105 (decisions D16, D19): reads of parallel ports A, B and control and of a counter/timer channel
return what the chip answers; writes of parallel port C and control and of a channel reach the chip unchanged; none changes
any state of the block. -/
def Obligations.ParallelAndTimerPortsPassThrough : Prop :=
  ∀ (s : State) (v : Byte) (ch : BitVec 2) (i : Instr) (c : Chip) (r : Nat), s.cfg.machine = .xor100 →
    ((i, c, r) ∈ [(Instr.inPpiA, Chip.ppi, 0), (.inPpiB, .ppi, 1), (.inPpiCtrl, .ppi, 3), (.inCtc ch, .ctc, ch.toNat)] →
      exec i s = .next { s with
        result := some (.byte s.reply)
        calls := s.calls ++ [.read c r]
        chipBytes := s.chipBytes.tail
        draws := if s.chipBytes.isEmpty then s.draws + 1 else s.draws }) ∧
    ((i, c, r) ∈ [(Instr.outPpiC v, Chip.ppi, 2), (.outPpiCtrl v, .ppi, 3), (.outCtc ch v, .ctc, ch.toNat)] →
      exec i s = .next { s with calls := s.calls ++ [.write c r v] })

/-- 44 R112: a write to port F8 + r is `OUT.FDC r`; it hands the controller's register r the one's complement of the byte,
and changes no state of the block. -/
def Obligations.FloppyRegisterWriteIsInverted : Prop :=
  ∀ (s : State) (r : BitVec 2) (v : Byte), s.cfg.machine = .xor100 →
    decode .xor100 (.iw (0xF8 + r.toNat) v) = .ok (.outFdc r v) ∧
    exec (.outFdc r v) s = .next { s with calls := s.calls ++ [.write .fdc r.toNat (~~~v)] }

/-- 44 R111 (decision D20) and R113: `IN.FDC r` returns the one's complement of the controller's byte; so a controller that
answers with the byte `OUT.FDC` handed it gives back the byte written. -/
def Obligations.FloppyRegisterReadIsInverted : Prop :=
  ∀ (s : State) (r : BitVec 2), s.cfg.machine = .xor100 →
    exec (.inFdc r) s = .next { s with
      result := some (.byte (~~~s.reply))
      calls := s.calls ++ [.read .fdc r.toNat]
      chipBytes := s.chipBytes.tail
      draws := if s.chipBytes.isEmpty then s.draws + 1 else s.draws } ∧
    ∀ (v : Byte) (bs : List Byte), s.chipBytes = (~~~v) :: bs →
      ∃ t, exec (.inFdc r) s = .next t ∧ t.result = some (.byte v)

/-! ### Ports of the block itself -/

/-- 42 R91, R92 (decisions D17, D18): `IN.DIP` returns `DIP_BAUD` and changes nothing; `OUT.BAUD` sets both rate codes, low
nibble channel A, high nibble channel B, and tells the generator; afterwards `IN.DIP` still returns the switch. -/
def Obligations.DipSwitchReadAndBaudWrite : Prop :=
  ∀ (s : State) (v : Byte), s.cfg.machine = .xor100 →
    exec .inDip s = .next { s with result := some (.byte s.cfg.dipBaud) } ∧
    ∃ t, exec (.outBaud v) s = .next t ∧
      t = { s with
        baudA := t.baudA
        baudB := t.baudB
        calls := s.calls ++ [.brgSetA t.baudA, .brgSetB t.baudB] } ∧
      t.baudA.toNat = v.toNat % 16 ∧ t.baudB.toNat = v.toNat / 16 ∧
      ∃ u, exec .inDip t = .next u ∧ u.result = some (.byte s.cfg.dipBaud)

/-- 43 R96 and R98 (decision D16): `OUT.PPI.A` latches the byte for the printer, `OUT.PPI.B` drives the strobe with bit 0;
the byte also reaches the chip. -/
def Obligations.PrinterLatchAndStrobe : Prop :=
  ∀ (s : State) (v : Byte), s.cfg.machine = .xor100 →
    exec (.outPpiA v) s = .next { s with centData := v, calls := s.calls ++ [.write .ppi 0 v] } ∧
    exec (.outPpiB v) s = .next { s with
      centStrobe := decide (v.toNat % 2 = 1)
      calls := s.calls ++ [.write .ppi 1 v, .printerStrobe (decide (v.toNat % 2 = 1))] }

/-- 43 R100 (decision D16 for the port): `IN.PPI.C` returns busy in bit 5, select in bit 4, zero in every other bit, and
changes nothing; a write of port 06 before it does not change what it returns. -/
def Obligations.PrinterCaptureBits : Prop :=
  ∀ (s : State) (w : Byte), s.cfg.machine = .xor100 →
    ∃ v : Byte, exec .inPpiC s = .next { s with result := some (.byte v) } ∧
      v.getLsbD 5 = s.centBusy ∧ v.getLsbD 4 = s.centSelect ∧
      (∀ k, k < 8 → k ≠ 4 → k ≠ 5 → v.getLsbD k = false) ∧
      ∃ t u, exec (.outPpiC w) s = .next t ∧ exec .inPpiC t = .next u ∧ u.result = some (.byte v)

/-- 45 R122, R123 (decisions D9, D34): a read of an unmapped port returns `IDLE_IO` and changes nothing; a write of one
changes nothing. The operations ignore their operands, so this holds of every port number. -/
def Obligations.UnmappedPortsAreIdle : Prop :=
  ∀ (s : State) (p v : Byte), s.cfg.machine = .xor100 →
    exec (.inUnmapped p) s =
      .next { s with result := some (.byte (if s.cfg.idleIo = .ones then 0xFF#8 else 0x00#8)) } ∧
    exec (.outUnmapped p v) s = .next s

/-! ### The bank switch -/

/-- 41 R75 (decision D6 names the mirrored cell; the mirror itself is 40 R72's): after each operation that can change the
mode or the selector, the three windows are the row of the binding table for the new mode and selector. -/
def Obligations.WindowsFollowTheBindingTable : Prop :=
  ∀ (i : Instr) (s t : State), exec i s = .next t →
    (i ∈ [Instr.inEpromF800, .evReset, .evPoweron] ∨ (∃ v, i = .outBanksel v ∨ i = .outEpromToggle v) ∨
      ∃ p, i = .evRestore p) →
    (t.selector.toNat < t.cfg.bankCount.val → t.win.w = .ram t.selector) ∧
    (t.cfg.bankCount.val ≤ t.selector.toNat → t.win.w = .detached) ∧
    (t.mode = .zero → t.win.rl = .romMirror ∧ t.win.rh = .rom) ∧
    (t.mode ≠ .zero → t.selector.toNat < t.cfg.bankCount.val → t.win.rl = .ram t.selector) ∧
    (t.mode ≠ .zero → t.cfg.bankCount.val ≤ t.selector.toNat → t.win.rl = .detached) ∧
    (t.mode = .f800 → t.win.rh = .rom) ∧
    (t.mode = .off → t.selector.toNat < t.cfg.bankCount.val → t.win.rh = .ram t.selector) ∧
    (t.mode = .off → t.cfg.bankCount.val ≤ t.selector.toNat → t.win.rh = .detached)

/-- 41 R77 (decision D11: the upper five bits are ignored): `OUT.BANKSEL` sets the selector to `v mod 8` and rebinds;
the mode stays; doing it twice is doing it once (R76). -/
def Obligations.BankSelectWrite : Prop :=
  ∀ (s : State) (v : Byte), s.cfg.machine = .xor100 →
    ∃ t, exec (.outBanksel v) s = .next t ∧ t = { s with selector := t.selector, win := t.win } ∧
      t.selector.toNat = v.toNat % 8 ∧ t.Coherent ∧ exec (.outBanksel v) t = .next t

/-- 41 R78 (decisions D10, D11): `OUT.EPROM.TOGGLE` flips between F800 and OFF, does nothing in ZERO, ignores its byte; two
in a row restore a state whose bindings are up to date. -/
def Obligations.ToggleWrite : Prop :=
  ∀ (s : State) (v w : Byte), s.cfg.machine = .xor100 →
    (∃ t, exec (.outEpromToggle v) s = .next t ∧ t = { s with mode := t.mode, win := t.win } ∧ t.Coherent ∧
      (s.mode = .f800 → t.mode = .off) ∧ (s.mode = .off → t.mode = .f800) ∧ (s.mode = .zero → t.mode = .zero) ∧
      (s.Coherent → exec (.outEpromToggle w) t = .next s)) ∧
    (s.Coherent → s.mode = .zero → exec (.outEpromToggle v) s = .next s)

/-- 41 R79: a read of port 0A is `IN.EPROM.F800`; it forces the mode to F800 from every mode, rebinds, and returns 0xFF
whatever `IDLE_IO` is; the selector stays. No other operation but a restore (R81) leaves mode ZERO. -/
def Obligations.ForcedModeRead : Prop :=
  decode .xor100 (.ir 0x0A) = .ok .inEpromF800 ∧
  (∀ s : State, s.cfg.machine = .xor100 →
    ∃ t, exec .inEpromF800 s = .next t ∧
      t = { s with mode := .f800, win := t.win, result := some (.byte 0xFF#8) } ∧ t.win = bind s.cfg .f800 s.selector) ∧
  ∀ (i : Instr) (s t : State), exec i s = .next t → s.mode = .zero → t.mode ≠ .zero →
    i = .inEpromF800 ∨ ∃ p, i = .evRestore p

/-- 41 R81: the transition table of `mode`, over every operation and every outcome; ZERO is entered only by reset,
power-on and restore, OFF only from F800 by port 09 or by restore, and the way from ZERO to OFF is `IN 0A` then `OUT 09`. -/
def Obligations.ModeTransitionTable : Prop :=
  (∀ (i : Instr) (s t : State), exec i s = .next t →
    ((∀ v, i = .outEpromToggle v →
        (s.mode = .zero → t.mode = .zero) ∧ (s.mode = .f800 → t.mode = .off) ∧ (s.mode = .off → t.mode = .f800)) ∧
      (i = .inEpromF800 → t.mode = .f800) ∧
      (i = .evReset ∨ i = .evPoweron → t.mode = .zero) ∧
      (∀ p, i = .evRestore p → t.mode = p.mode) ∧
      ((∀ v, i ≠ .outEpromToggle v) → i ≠ .inEpromF800 → i ≠ .evReset → i ≠ .evPoweron → (∀ p, i ≠ .evRestore p) →
        t.mode = s.mode)) ∧
    (s.mode ≠ .zero → t.mode = .zero → i = .evReset ∨ i = .evPoweron ∨ ∃ p, i = .evRestore p) ∧
    (s.mode ≠ .off → t.mode = .off → (s.mode = .f800 ∧ ∃ v, i = .outEpromToggle v) ∨ ∃ p, i = .evRestore p)) ∧
  (∀ (i : Instr) (s t : State) (c : WaitCause), exec i s = .fault (.unsupportedWaitState c t) → t.mode = s.mode) ∧
  ∀ (s : State) (v : Byte), s.cfg.machine = .xor100 → s.mode = .zero →
    ∃ t u, exec .inEpromF800 s = .next t ∧ exec (.outEpromToggle v) t = .next u ∧ u.mode = .off

/-- 10_state R16: the selector changes only by a write to port 08, by restore, and by power-on, which sets it to
`SELECTOR_POWERON`; reset does not change it. -/
def Obligations.SelectorChangesOnlyByItsWriters : Prop :=
  ∀ (i : Instr) (s t : State), exec i s = .next t →
    (∀ v, i = .outBanksel v → t.selector.toNat = v.toNat % 8) ∧
    (∀ p, i = .evRestore p → t.selector = p.selector) ∧
    (i = .evPoweron → t.selector = s.cfg.selectorPowerOn) ∧
    ((∀ v, i ≠ .outBanksel v) → (∀ p, i ≠ .evRestore p) → i ≠ .evPoweron → t.selector = s.selector)

/-- 20_memory R57: the first memory access after an operation that rebinds is resolved against the new bindings, at every
address, a write as a read; the ports decode as ever, since decoding reads no state. -/
def Obligations.NextAccessSeesTheNewBindings : Prop :=
  ∀ (i : Instr) (s t : State) (a : Addr16) (v : Byte), t.cfg.machine = .xor100 → exec i s = .next t →
    (i ∈ [Instr.inEpromF800, .evReset, .evPoweron] ∨ (∃ v, i = .outBanksel v ∨ i = .outEpromToggle v) ∨
      ∃ p, i = .evRestore p) →
    exec (decodeReadWindow a) t =
      .next { t with result := some (.byte (t.physByte (physRead t.cfg t.mode t.selector a))) } ∧
    (∀ k, physWrite t.cfg t.selector a = .ram k → exec (.wrWin a v) t = .next (t.writeRam k v)) ∧
    ((∀ k, physWrite t.cfg t.selector a ≠ .ram k) → exec (.wrWin a v) t = .next t)

/-- 41 R76, 20_memory R51, R52: rebinding the three windows of the dispatch tables of any bindings gives exactly the tables
of the new bindings. -/
def Obligations.RebindingTheTablesGivesTheNewTables : Prop :=
  ∀ (cfg : Config) (old new : Windows),
    rebindTables cfg ⟨xor100ReadTable cfg old, xor100WriteTable cfg old⟩ new =
      ⟨xor100ReadTable cfg new, xor100WriteTable cfg new⟩

/-- 20_memory R51: rebinding a range of a table leaves every address outside it with the target it had. That an entry cut in
two by the range goes on, in its part above it, counting offsets from the base it had is the model's choice (log 20, DESIGN
CHOICE), which R51 does not state. -/
def Obligations.RebindingARangeLeavesTheRestAlone : Prop :=
  ∀ (t new : List Entry) (lo hi a : Nat), lo ≤ hi → a < lo ∨ hi < a → (∀ e ∈ new, lo ≤ e.start ∧ e.stop ≤ hi) →
    (lookup (rebindRange t lo hi new) a).map (fun e => (e.base, e.target)) =
      (lookup t a).map fun e => (e.base, e.target)

/-! ### Memory operations of xor100 -/

/-- 40 R71: a read of an address of the high window is `RD.HI`, whose byte is given by the binding RH; it writes nothing.
With the bindings up to date modes ZERO and F800 read the ROM whatever the selector, and mode OFF reads idle while it is out
of range. -/
def Obligations.HighWindowRead : Prop :=
  ∀ (s : State) (a : Addr16), s.cfg.machine = .xor100 → 0xF800 ≤ a.toNat →
    decode .xor100 (.mr a.toNat 1) = .ok (.rdHi a) ∧
    ∃ v, exec (.rdHi a) s = .next { s with result := some (.byte v) } ∧
      (s.win.rh = .rom → v = s.romByte (a.toNat - 0xF800)) ∧
      (∀ q, s.win.rh = .ram q → v = s.ramByte (q.toNat * 0x10000 + a.toNat)) ∧
      (s.win.rh = .detached → v = s.cfg.idleMem.byte) ∧
      (s.Coherent → s.mode ≠ .off → v = s.romByte (a.toNat - 0xF800)) ∧
      (s.Coherent → s.mode = .off → s.cfg.bankCount.val ≤ s.selector.toNat → v = s.cfg.idleMem.byte)

/-- 40 R72: a read of an address of the low window is `RD.LO`, whose byte is given by the binding RL; it writes nothing.
With the bindings up to date mode ZERO never reads RAM, and the other modes read idle while the selector is out of range. -/
def Obligations.LowWindowRead : Prop :=
  ∀ (s : State) (a : Addr16), s.cfg.machine = .xor100 → a.toNat < 0xF800 →
    decode .xor100 (.mr a.toNat 1) = .ok (.rdLo a) ∧
    ∃ v, exec (.rdLo a) s = .next { s with result := some (.byte v) } ∧
      (s.win.rl = .romMirror → (s.cfg.zeroLowMirror = true ∨ a.toNat ≤ 0x07FF) → v = s.romByte (a.toNat % 0x800)) ∧
      (s.win.rl = .romMirror → s.cfg.zeroLowMirror = false → 0x07FF < a.toNat → v = s.cfg.idleMem.byte) ∧
      (∀ q, s.win.rl = .ram q → v = s.ramByte (q.toNat * 0x10000 + a.toNat)) ∧
      (s.win.rl = .detached → v = s.cfg.idleMem.byte) ∧
      (s.Coherent → s.mode = .zero → s.cfg.zeroLowMirror = true → v = s.romByte (a.toNat % 0x800)) ∧
      (s.Coherent → s.mode ≠ .zero → s.cfg.bankCount.val ≤ s.selector.toNat → v = s.cfg.idleMem.byte)

/-- 40 R73: a memory write is `WR.WIN`; it stores its byte at the RAM byte the write window gives the address, and every other
byte of every region reads as before; where the window is detached, or the address is above `WRITE_WINDOW_END`, nothing
changes. With the bindings up to date it is detached, in every mode, exactly while the selector is out of range. -/
def Obligations.WriteWindowStoresOneByte : Prop :=
  ∀ (s : State) (a : Addr16) (v : Byte), s.cfg.machine = .xor100 →
    decode .xor100 (.mw a.toNat 1 (v.setWidth 16)) = .ok (.wrWin a v) ∧
    (s.Coherent → s.win.w = if s.selector.toNat < s.cfg.bankCount.val then .ram s.selector else .detached) ∧
    (∀ q, s.win.w = .ram q → a.toNat ≤ s.cfg.writeWindowEnd.addr →
      ∃ t, exec (.wrWin a v) s = .next t ∧ t = { s with ram := t.ram } ∧
        t.ramByte (q.toNat * 0x10000 + a.toNat) = v ∧
        (∀ i, i ≠ q.toNat * 0x10000 + a.toNat → t.ramByte i = s.ramByte i) ∧
        (∀ i, t.romByte i = s.romByte i) ∧ ∀ k i, t.otherByte k i = s.otherByte k i) ∧
    (s.win.w = .detached ∨ s.cfg.writeWindowEnd.addr < a.toNat → exec (.wrWin a v) s = .next s)

/-- 20_memory R55: with the bindings up to date, a read of any address returns the byte of `Phys(read, a)`, the idle value
where there is none; a write stores at `Phys(write, a)`, nothing where there is none; nothing faults; a physical byte is
inside its region. -/
def Obligations.AccessesReachThePhysicalByte : Prop :=
  ∀ (s : State) (a : Addr16) (v : Byte), s.cfg.machine = .xor100 → s.Coherent →
    exec (decodeReadWindow a) s =
      .next { s with result := some (.byte (s.physByte (physRead s.cfg s.mode s.selector a))) } ∧
    (∀ k, physWrite s.cfg s.selector a = .ram k → exec (.wrWin a v) s = .next (s.writeRam k v)) ∧
    (physWrite s.cfg s.selector a = .none → exec (.wrWin a v) s = .next s) ∧
    (∀ k, physRead s.cfg s.mode s.selector a = .ram k ∨ physWrite s.cfg s.selector a = .ram k →
      k < s.cfg.bankCount.val * 0x10000) ∧
    (∀ k, physRead s.cfg s.mode s.selector a = .rom k → k < 0x800) ∧ ∀ k, physWrite s.cfg s.selector a ≠ .rom k

/-- 20_memory R55, R56(b), R43: with the bindings up to date, after a write every physical byte reads as before, but for
`Phys(write, a)`, which reads as the byte written; so a later read by any logical name of it returns that byte. -/
def Obligations.ReadAfterWriteByAnyName : Prop :=
  ∀ (s : State) (a b : Addr16) (v : Byte), s.cfg.machine = .xor100 → s.Coherent →
    ∃ t, exec (.wrWin a v) s = .next t ∧ t = { s with ram := t.ram } ∧
      (∀ x : Phys, x ≠ .none → t.physByte x = if x = physWrite s.cfg s.selector a then v else s.physByte x) ∧
      (physRead s.cfg s.mode s.selector b = physWrite s.cfg s.selector a →
        physRead s.cfg s.mode s.selector b ≠ .none →
        ∃ u, exec (decodeReadWindow b) t = .next u ∧ u.result = some (.byte v))

/-- 20_memory R40, R41, R52; 40 R71 to R73: with the bindings up to date, `MemRead(a, 1)` through the tables of R52 is the
read of the window `a` is decoded to, and `MemWrite(a, 1, v)` through them is `WR.WIN`. -/
def Obligations.WindowAccessesAgreeWithTheDispatchTables : Prop :=
  ∀ (s : State) (a : Addr16) (v : Byte), s.cfg.machine = .xor100 → s.Coherent →
    (∃ b, memReadByte s.tables.read a.toNat s = some (b, s) ∧
      exec (decodeReadWindow a) s = .next { s with result := some (.byte b) }) ∧
    ∃ t, memWriteByte s.tables.write a.toNat v s = some t ∧ exec (.wrWin a v) s = .next t

/-- 20_memory R36, R37, R52: with the bindings up to date, the tables of xor100 are sorted, cover each address once, keep
every `Direct` entry inside its region, and bind no read-only region for writing. -/
def Obligations.Xor100TablesAreLegal : Prop :=
  ∀ s : State, s.cfg.machine = .xor100 → s.Coherent → s.LegalTables s.tables 0xFFFF

/-- 70 R154, R152: wherever a read binding is the ROM, a byte written with a selector in range goes under it, and a read of
the same address still returns the ROM byte. The byte is read when the mode changes: one of the low window (under the ROM in
mode ZERO) after `IN 0A`, one of the high window (under the ROM in modes ZERO and F800) after `IN 0A` and `OUT 09`. -/
def Obligations.WriteUnderRomAppearsWhenTheModeChanges : Prop :=
  ∀ (s : State) (a : Addr16) (v b : Byte), s.cfg.machine = .xor100 → s.Coherent →
    s.selector.toNat < s.cfg.bankCount.val →
    (s.mode = .zero → a.toNat < 0xF800 → s.cfg.zeroLowMirror = true ∨ a.toNat ≤ 0x07FF →
      ∃ t u w x, exec (.wrWin a v) s = .next t ∧
        exec (.rdLo a) t = .next u ∧ u.result = some (.byte (s.romByte (a.toNat % 0x800))) ∧
        exec .inEpromF800 u = .next w ∧ exec (.rdLo a) w = .next x ∧ x.result = some (.byte v)) ∧
    (s.mode ≠ .off → 0xF800 ≤ a.toNat → a.toNat ≤ s.cfg.writeWindowEnd.addr →
      ∃ t u w x y, exec (.wrWin a v) s = .next t ∧
        exec (.rdHi a) t = .next u ∧ u.result = some (.byte (s.romByte (a.toNat - 0xF800))) ∧
        exec .inEpromF800 u = .next w ∧ exec (.outEpromToggle b) w = .next x ∧
        exec (.rdHi a) x = .next y ∧ y.result = some (.byte v))

/-- 70 R156: in modes F800 and OFF a selector out of range makes low reads return the idle value and writes change nothing;
a valid selector brings the RAM content back. -/
def Obligations.OutOfRangeSelectorHidesRam : Prop :=
  ∀ (s t : State) (v w x : Byte) (a b : Addr16), s.cfg.machine = .xor100 → s.mode ≠ .zero →
    a.toNat < 0xF800 → s.cfg.bankCount.val ≤ v.toNat % 8 → w.toNat % 8 < s.cfg.bankCount.val →
    exec (.outBanksel v) s = .next t →
    exec (.rdLo a) t = .next { t with result := some (.byte s.cfg.idleMem.byte) } ∧
    exec (.wrWin b x) t = .next t ∧
    ∃ u y, exec (.outBanksel w) t = .next u ∧ exec (.rdLo a) u = .next y ∧
      y.result = some (.byte (s.ramByte (w.toNat % 8 * 0x10000 + a.toNat)))

/-! ### The floppy layer -/

/-- 44 R114, R116 (decision D22 for the upper four bits): `OUT.FDC.DSEL` selects the drive of the highest set bit of
`v[3:0]`, none where there is none; starts the motor of that drive and of no other; and tells the controller. -/
def Obligations.DriveSelectWrite : Prop :=
  ∀ (s : State) (v : Byte), s.cfg.machine = .xor100 →
    ∃ t, exec (.outFdcDsel v) s = .next t ∧
      t = { s with
        selectedDrive := t.selectedDrive
        motorOn := t.motorOn
        calls := s.calls ++ [.fdcSetDrive t.selectedDrive] } ∧
      (t.selectedDrive = none ↔ v.toNat % 16 = 0) ∧
      (∀ d : Drive, t.selectedDrive = some d ↔
        v.getLsbD d.val = true ∧ ∀ e : Drive, d.val < e.val → v.getLsbD e.val = false) ∧
      ∀ d : Drive, t.motorOn.get d = (s.motorOn.get d || decide (t.selectedDrive = some d))

/-- 44 R117 (decision D23: 1 sets, 2 clears; 93_implementation_defined U9 makes that a parameter, so the other way round where
it is off): `OUT.FDC.DENS` holds, sets, clears or toggles the density by `v mod 4` and drives it to the controller. -/
def Obligations.DensityWrite : Prop :=
  ∀ (s : State) (v : Byte), s.cfg.machine = .xor100 →
    ∃ t, exec (.outFdcDens v) s = .next t ∧
      t = { s with density := t.density, calls := s.calls ++ [.fdcDensity t.density] } ∧
      (v.toNat % 4 = 0 → t.density = s.density) ∧ (v.toNat % 4 = 1 → t.density = s.cfg.densityOneSets) ∧
      (v.toNat % 4 = 2 → t.density = !s.cfg.densityOneSets) ∧ (v.toNat % 4 = 3 → t.density = !s.density)

/-- 44 R115 (decision D21): where IRQ or DRQ is up, or `FC_BUSY_FAULT` is off, `IN.FDC.WAIT` returns `IRQ` in bit 7 (its
complement when `FC_IRQ_INVERTED`), zeros elsewhere, and changes nothing. -/
def Obligations.WaitStatusReadCompletes : Prop :=
  ∀ s : State, s.cfg.machine = .xor100 → s.cfg.fcBusyFault = false ∨ s.irq = true ∨ s.drq = true →
    ∃ v : Byte, exec .inFdcWait s = .next { s with result := some (.byte v) } ∧
      v.getLsbD 7 = (if s.cfg.fcIrqInverted then !s.irq else s.irq) ∧ ∀ k, k < 7 → v.getLsbD k = false

/-- 44 R119, R120 (decision D24): a floppy line event that is no rising edge sets its line to the new level and changes
nothing else; where a stall was in progress, whether it ends is a free value (log 15). -/
def Obligations.FloppyLineEventsWithoutEdge : Prop :=
  ∀ (s : State) (b : Bool), s.cfg.machine = .xor100 →
    (s.irq = true ∨ b = false → ∃ t, exec (.evFdcIrq b) s = .next t ∧
      t = { s with irq := b, cpuWait := t.cpuWait, draws := t.draws } ∧
      (s.cpuWait = false → t.cpuWait = false ∧ t.draws = s.draws)) ∧
    (s.drq = true ∨ b = false → ∃ t, exec (.evFdcDrq b) s = .next t ∧
      t = { s with drq := b, cpuWait := t.cpuWait, draws := t.draws } ∧
      (s.cpuWait = false → t.cpuWait = false ∧ t.draws = s.draws))

/-- 44 R115, R119 to R121, 60 R127 (decisions D21, D24, D25): with `HOST_WAIT = unsupported`, a rising edge of IRQ or DRQ
ends in the fault, cause 1 or 2, the state kept having the line up; a read of port FC while both are low ends in it, cause 3
with port FC. The state kept has `fault` set and is otherwise the state before. -/
def Obligations.WaitRequestsFaultByDefault : Prop :=
  ∀ s : State, s.cfg.machine = .xor100 → s.cfg.hostWait = .unsupported →
    (s.irq = false → ∃ t, exec (.evFdcIrq true) s = .fault (.unsupportedWaitState .irqRise t) ∧
      t = { s with irq := true, fault := some .irqRise, cpuWait := t.cpuWait, draws := t.draws } ∧
      (s.cpuWait = false → t.cpuWait = false ∧ t.draws = s.draws)) ∧
    (s.drq = false → ∃ t, exec (.evFdcDrq true) s = .fault (.unsupportedWaitState .drqRise t) ∧
      t = { s with drq := true, fault := some .drqRise, cpuWait := t.cpuWait, draws := t.draws } ∧
      (s.cpuWait = false → t.cpuWait = false ∧ t.draws = s.draws)) ∧
    (s.cfg.fcBusyFault = true → s.irq = false → s.drq = false →
      exec .inFdcWait s = .fault (.unsupportedWaitState .busyRead { s with fault := some .busyRead })) ∧
    WaitCause.number .irqRise = 1 ∧ WaitCause.number .drqRise = 2 ∧ WaitCause.number .busyRead = 3 ∧
    WaitCause.port .busyRead = some 0xFC#8

/-- 60 R129, 44 R121 (decision D24): with `HOST_WAIT = stall`, the three wait requests drive the CPU's wait line and
complete; the read still returns its status byte. -/
def Obligations.StallHostDrivesTheWaitLine : Prop :=
  ∀ s : State, s.cfg.machine = .xor100 → s.cfg.hostWait = .stall →
    (s.cfg.fcBusyFault = true → s.irq = false → s.drq = false →
      exec .inFdcWait s = .next { s with
        cpuWait := true
        calls := s.calls ++ [.cpuWait true]
        result := some (.byte (if s.cfg.fcIrqInverted then 0x80#8 else 0x00#8)) }) ∧
    (s.irq = false → ∃ t, exec (.evFdcIrq true) s = .next t ∧
      t = { s with irq := true, cpuWait := true, calls := s.calls ++ [.cpuWait true], draws := t.draws }) ∧
    (s.drq = false → ∃ t, exec (.evFdcDrq true) s = .next t ∧
      t = { s with drq := true, cpuWait := true, calls := s.calls ++ [.cpuWait true], draws := t.draws })

/-- 60 R129, 44 R121 (decision D24): a stalled CPU issues no transaction; only a floppy line event can end the stall, or a
power-on; and with `HOST_WAIT = unsupported` no step raises the wait line. That a power-on ends it is the model's choice: the
spec gives the wait line no value after power-on, and the model has 0 (log 15, DESIGN CHOICE). -/
def Obligations.StallLastsUntilAFloppyEvent : Prop :=
  (∀ (s : State) (x : BusItem) (rest : List BusItem), s.cpuWait = true → s.fault = none → s.inputs = x :: rest →
    x.format ≠ .EV → step s = .refused .cpuStalled) ∧
  (∀ s t : State, step s = .next t → s.cpuWait = true → t.cpuWait = false →
    ∃ x rest, s.inputs = x :: rest ∧
      ((∃ b, x = .ev (.fdcIrq b)) ∨ (∃ b, x = .ev (.fdcDrq b)) ∨ x = .ev .powerOn)) ∧
  ∀ s t : State, step s = .next t → s.cfg.hostWait = .unsupported → s.cpuWait = false → t.cpuWait = false

/-! ### Events -/

/-- 43 R106 to R108: a printer line event sets the captured level and nothing else, and the next `IN 06` shows it; a
repeated level and a counter/timer zero-output event change no state. 42 R93 with log 23 (DEDUCED: the model's reading of what
is left to the block): a serial line event changes no state. For every channel, line and level. -/
def Obligations.SignalEventsOfPrinterTimerAndSerialLines : Prop :=
  ∀ (s : State) (c : BitVec 2) (ch : Channel) (l : SerLine) (b : Bool), s.cfg.machine = .xor100 →
    (∃ t u v, exec (.evCentBusy b) s = .next t ∧ t = { s with centBusy := b } ∧ (s.centBusy = b → t = s) ∧
      exec .inPpiC t = .next u ∧ u.result = some (.byte v) ∧ v.getLsbD 5 = b) ∧
    (∃ t u v, exec (.evCentSelect b) s = .next t ∧ t = { s with centSelect := b } ∧
      exec .inPpiC t = .next u ∧ u.result = some (.byte v) ∧ v.getLsbD 4 = b) ∧
    exec (.evCtcZc c b) s = .next s ∧ exec (.evSerLine ch l b) s = .next s

/-- 70 R144 (decision D12; log 8, log 15, log 17 for the free values, the wait line and the generic regions): power-on. Every
RAM byte and the four latches hold free values, ROM keeps its bytes, the captures are 0, no drive is selected, no motor runs, no fault is set. -/
def Obligations.PowerOnState : Prop :=
  ∀ s : State, ∃ t, exec .evPoweron s = .next t ∧
    t.mode = .zero ∧ t.selector = s.cfg.selectorPowerOn ∧ t.Coherent ∧
    t.irq = false ∧ t.drq = false ∧ t.density = false ∧ t.selectedDrive = none ∧ (∀ d, t.motorOn.get d = false) ∧
    t.centBusy = false ∧ t.centSelect = false ∧ t.fault = none ∧
    (∃ n, t.centData = Config.free8 n ∧ t.centStrobe = Config.free1 n ∧ t.baudA = Config.free4 n ∧
      t.baudB = Config.free4 (n + 1)) ∧
    (∀ i, t.ramByte i = Config.ramPowerOn t.ramEra i) ∧ (∀ i, t.romByte i = s.romByte i) ∧
    (∀ (k : Nat) (r : Region), s.regions[k]? = some r →
      t.regions[k]? = some (if r.writable then { r with cells := [] } else r)) ∧
    t.cpuWait = false ∧ t.cfg = s.cfg ∧ t.inputs = s.inputs ∧ t.chipBytes = s.chipBytes ∧ t.result = s.result ∧ t.calls = s.calls

/-- 70 R145 (decision D13): reset sets the mode to ZERO, rebinds, and changes nothing else; a set fault stays set. -/
def Obligations.ResetForcesModeZeroOnly : Prop :=
  ∀ s : State, exec .evReset s = .next { s with mode := .zero, win := bind s.cfg .zero s.selector }

/-- 70 R149 (decision D14): restore loads the seven persisted fields, rebinds, and changes nothing else; it raises no wait
request. -/
def Obligations.RestoreLoadsThePersistedFields : Prop :=
  ∀ (s : State) (p : Persisted), ∃ t, exec (.evRestore p) s = .next t ∧ t.save = p ∧ t.Coherent ∧
    t = { s with
      mode := t.mode
      selector := t.selector
      irq := t.irq
      drq := t.drq
      density := t.density
      centBusy := t.centBusy
      centSelect := t.centSelect
      win := t.win }

/-- 70 R151: persist, restore into a fresh instance with the same parameters: the bindings and the seven fields are those of
the original. The original is any state whose bindings are up to date (R18), which every step keeps. -/
def Obligations.SaveRestoreRoundTrip : Prop :=
  ∀ s f : State, s.Coherent → f.cfg = s.cfg →
    ∃ g t, exec .evPoweron f = .next g ∧ exec (.evRestore s.save) g = .next t ∧ t.win = s.win ∧ t.save = s.save ∧
      t.selectedDrive = none ∧ t.fault = none

/-! ### The whole machine -/

/-- 10_state R18, R19, R20 (log 6 for the canonical form): a step keeps the bindings up to date and every region's bytes in
canonical form inside the region. -/
def Obligations.StepKeepsTheInvariant : Prop :=
  ∀ s t : State, s.Inv → step s = .next t → t.Inv

/-- The state a run starts from meets the invariant; its mode is ZERO and no fault is set (10_state R33, 70 R144), and no drive
is selected (decision D12, which gives a value the source document does not). That `State.reset` is the state after power-on,
under the default parameters, is the model's choice (log 9, DESIGN CHOICE). -/
def Obligations.ResetMeetsTheInvariant : Prop :=
  State.reset.Inv ∧ State.reset.mode = .zero ∧ State.reset.fault = none ∧ State.reset.selectedDrive = none

/-- 10_state R19: no step writes ROM: its bytes are the same after every step, those that fault included. -/
def Obligations.RomNeverChanges : Prop :=
  ∀ s t : State, (step s = .next t ∨ ∃ c, step s = .fault (.unsupportedWaitState c t)) →
    ∀ i, t.romByte i = s.romByte i

/-- 00_scope R5 to R10, 10_state section 10 (log 1): no step changes a parameter. -/
def Obligations.ParametersNeverChange : Prop :=
  ∀ s t : State, (step s = .next t ∨ ∃ c, step s = .fault (.unsupportedWaitState c t)) → t.cfg = s.cfg

/-- 20_memory R41, 10_state R20: the only operations after which a byte of memory can read otherwise are the two memory
writes and power-on. -/
def Obligations.OnlyMemoryWritesChangeMemory : Prop :=
  ∀ (i : Instr) (s t : State), exec i s = .next t → i.format ≠ .MW → i ≠ .evPoweron → SameBytes s t

/-- 60 R126, R136 (decision D25 for the causes): on xor100 an operation faults exactly in the three cases, with
`HOST_WAIT = unsupported`; the fault carries its cause and a state with `fault` set; on tr175 nothing faults. -/
def Obligations.FaultsExactlyInTheThreeCases : Prop :=
  (∀ (i : Instr) (s : State), s.cfg.machine = .xor100 →
    ((∃ f, exec i s = .fault f) ↔ s.cfg.hostWait = .unsupported ∧
      ((i = .evFdcIrq true ∧ s.irq = false) ∨ (i = .evFdcDrq true ∧ s.drq = false) ∨
        (i = .inFdcWait ∧ s.cfg.fcBusyFault = true ∧ s.irq = false ∧ s.drq = false)))) ∧
  (∀ (i : Instr) (s : State) (f : Fault), exec i s = .fault f →
    ∃ c t, f = .unsupportedWaitState c t ∧ t.fault = some c ∧
      ((i = .evFdcIrq true ∧ c = .irqRise) ∨ (i = .evFdcDrq true ∧ c = .drqRise) ∨ (i = .inFdcWait ∧ c = .busyRead))) ∧
  ∀ (i : Instr) (s : State) (f : Fault), s.cfg.machine = .tr175 → exec i s ≠ .fault f

/-- 60 R133, R134 (decision D25): a machine whose fault is set takes no further step, reset included, except a power-on,
after which no fault is set. -/
def Obligations.FaultedMachineStops : Prop :=
  ∀ (s : State) (c : WaitCause) (x : BusItem) (rest : List BusItem), s.fault = some c → s.inputs = x :: rest →
    (x ≠ .ev .powerOn → step s = .fault (.alreadyFaulted c)) ∧
    (x = .ev .powerOn → ∃ t, step s = .next t ∧ t.fault = none)

/-- 30_encoding R67, R49: on xor100 no transaction of the machine is illegal: each is decoded to one operation, which is
well formed and exists, and a machine neither faulted nor stalled never refuses it. -/
def Obligations.EveryTransactionOfXor100HasAMeaning : Prop :=
  ∀ (s : State) (x : BusItem) (rest : List BusItem), s.cfg.machine = .xor100 → s.fault = none → s.cpuWait = false →
    s.inputs = x :: rest →
    ((∃ a, a < 0x10000 ∧ x = .mr a 1) ∨ (∃ a d, a < 0x10000 ∧ d.toNat < 256 ∧ x = .mw a 1 d) ∨ (∃ p, x = .ir p) ∨
      (∃ p v, x = .iw p v) ∨ ∃ e, x = .ev e) →
    (∃ i, decode .xor100 x = .ok i ∧ WellFormed i = true ∧ i.existsOn .xor100 = true) ∧ ∀ r, step s ≠ .refused r

/-- 30_encoding R60 (log 2, log 3): a step performs the operation its item decodes to; around it the item leaves the
sequence and the answers of the last step are cleared. -/
def Obligations.StepRunsTheDecodedOperation : Prop :=
  ∀ (s : State) (x : BusItem) (rest : List BusItem) (i : Instr), s.inputs = x :: rest → s.fault = none →
    (s.cpuWait = false ∨ x.format = .EV) → decode s.cfg.machine x = .ok i →
    step s = exec i { s with inputs := rest, result := none, calls := [] }

/-- 40 R74, 20_memory R34, R49 (log 16): an operation of the other machine is refused by name. -/
def Obligations.OperationsOfTheOtherMachineAreRefused : Prop :=
  ∀ (i : Instr) (s : State), i.existsOn s.cfg.machine = false → exec i s = .refused (.notOnThisMachine s.cfg.machine)

/-! ### Decoding -/

/-- 30_encoding R62 to R64, R68: for every well-formed operation and machine it exists on, decoding its encoding gives it
back, whatever its operands. -/
def Obligations.DecodeOfEncodeIsTheOperation : Prop :=
  ∀ (i : Instr) (m : MachineKind), WellFormed i = true → i.existsOn m = true → decode m (encode i) = .ok i

/-- 30_encoding R60 to R64: whatever decodes is well formed, and decoding does not depend on a port's address bits above
bit 7 (R62, 45 R125). -/
def Obligations.DecodedOperationsAreWellFormed : Prop :=
  (∀ (m : MachineKind) (x : BusItem) (i : Instr), decode m x = .ok i → WellFormed i = true) ∧
  ∀ (m : MachineKind) (p : Nat) (v : Byte),
    decode m (.ir p) = decode m (.ir (p % 256)) ∧ decode m (.iw p v) = decode m (.iw (p % 256) v)

/-- 45 R124: the unmapped ports are exactly 08, 09, 10 to F7, FD to FF for reads and 0A, 10 to F7, FE, FF for writes, at
every address the CPU presents. -/
def Obligations.UnmappedPortsAreExactlyTheListed : Prop :=
  ∀ (addr : Nat) (v : Byte),
    (decode .xor100 (.ir addr) = .ok (.inUnmapped (BitVec.ofNat 8 addr)) ↔
      addr % 256 = 0x08 ∨ addr % 256 = 0x09 ∨ (0x10 ≤ addr % 256 ∧ addr % 256 ≤ 0xF7) ∨ 0xFD ≤ addr % 256) ∧
    (decode .xor100 (.iw addr v) = .ok (.outUnmapped (BitVec.ofNat 8 addr) v) ↔
      addr % 256 = 0x0A ∨ (0x10 ≤ addr % 256 ∧ addr % 256 ≤ 0xF7) ∨ 0xFE ≤ addr % 256)

/-- 30_encoding R64: on xor100 a memory read is decoded by its window, every memory write is `WR.WIN`; on tr175 (decision
D29: the table is the decode) every one-byte access is the generic operation of its address. -/
def Obligations.MemoryDecodeByWindow : Prop :=
  (∀ (a : Nat) (v : Byte), a < 0x10000 →
    (0xF800 ≤ a → decode .xor100 (.mr a 1) = .ok (.rdHi (BitVec.ofNat 16 a))) ∧
    (a < 0xF800 → decode .xor100 (.mr a 1) = .ok (.rdLo (BitVec.ofNat 16 a))) ∧
    decode .xor100 (.mw a 1 (v.setWidth 16)) = .ok (.wrWin (BitVec.ofNat 16 a) v)) ∧
  ∀ (a : Nat) (v : Byte), a < 0x1000000 →
    decode .tr175 (.mr a 1) = .ok (.rdGen (BitVec.ofNat 24 a) .byte) ∧
    decode .tr175 (.mw a 1 (v.setWidth 16)) = .ok (.wrGen (BitVec.ofNat 24 a) (.byte v))

/-- 30_encoding R63 (decisions D15, D16 for the roles of ports 00 to 07), R62, R64: the whole table of ports written out, one
clause for each mapped port and direction, whatever the data byte; a port presented with higher address bits; and an address
of each memory window. -/
def Obligations.WrittenOutItemsDecode : Prop :=
  ∀ v : Byte,
    decode .xor100 (.ir 0b00000000) = .ok .inSeraData ∧
    decode .xor100 (.iw 0b00000000 v) = .ok (.outSeraData v) ∧
    decode .xor100 (.ir 0b00000001) = .ok .inSeraStat ∧
    decode .xor100 (.iw 0b00000001 v) = .ok (.outSeraCtrl v) ∧
    decode .xor100 (.ir 0b00000010) = .ok .inSerbData ∧
    decode .xor100 (.iw 0b00000010 v) = .ok (.outSerbData v) ∧
    decode .xor100 (.ir 0b00000011) = .ok .inSerbStat ∧
    decode .xor100 (.iw 0b00000011 v) = .ok (.outSerbCtrl v) ∧
    decode .xor100 (.ir 0b00000100) = .ok .inPpiA ∧
    decode .xor100 (.iw 0b00000100 v) = .ok (.outPpiA v) ∧
    decode .xor100 (.ir 0b00000101) = .ok .inPpiB ∧
    decode .xor100 (.iw 0b00000101 v) = .ok (.outPpiB v) ∧
    decode .xor100 (.ir 0b00000110) = .ok .inPpiC ∧
    decode .xor100 (.iw 0b00000110 v) = .ok (.outPpiC v) ∧
    decode .xor100 (.ir 0b00000111) = .ok .inPpiCtrl ∧
    decode .xor100 (.iw 0b00000111 v) = .ok (.outPpiCtrl v) ∧
    decode .xor100 (.iw 0b00001000 v) = .ok (.outBanksel v) ∧
    decode .xor100 (.iw 0b00001001 v) = .ok (.outEpromToggle v) ∧
    decode .xor100 (.ir 0b00001010) = .ok .inEpromF800 ∧
    decode .xor100 (.ir 0b00001011) = .ok .inDip ∧
    decode .xor100 (.iw 0b00001011 v) = .ok (.outBaud v) ∧
    decode .xor100 (.ir 0b00001100) = .ok (.inCtc 0b00#2) ∧
    decode .xor100 (.iw 0b00001100 v) = .ok (.outCtc 0b00#2 v) ∧
    decode .xor100 (.ir 0b00001101) = .ok (.inCtc 0b01#2) ∧
    decode .xor100 (.iw 0b00001101 v) = .ok (.outCtc 0b01#2 v) ∧
    decode .xor100 (.ir 0b00001110) = .ok (.inCtc 0b10#2) ∧
    decode .xor100 (.iw 0b00001110 v) = .ok (.outCtc 0b10#2 v) ∧
    decode .xor100 (.ir 0b00001111) = .ok (.inCtc 0b11#2) ∧
    decode .xor100 (.iw 0b00001111 v) = .ok (.outCtc 0b11#2 v) ∧
    decode .xor100 (.ir 0b11111000) = .ok (.inFdc 0b00#2) ∧
    decode .xor100 (.iw 0b11111000 v) = .ok (.outFdc 0b00#2 v) ∧
    decode .xor100 (.ir 0b11111001) = .ok (.inFdc 0b01#2) ∧
    decode .xor100 (.iw 0b11111001 v) = .ok (.outFdc 0b01#2 v) ∧
    decode .xor100 (.ir 0b11111010) = .ok (.inFdc 0b10#2) ∧
    decode .xor100 (.iw 0b11111010 v) = .ok (.outFdc 0b10#2 v) ∧
    decode .xor100 (.ir 0b11111011) = .ok (.inFdc 0b11#2) ∧
    decode .xor100 (.iw 0b11111011 v) = .ok (.outFdc 0b11#2 v) ∧
    decode .xor100 (.ir 0b11111100) = .ok .inFdcWait ∧
    decode .xor100 (.iw 0b11111100 v) = .ok (.outFdcDsel v) ∧
    decode .xor100 (.iw 0b11111101 v) = .ok (.outFdcDens v) ∧
    decode .xor100 (.iw 0x1208 v) = .ok (.outBanksel v) ∧
    decode .xor100 (.mr 0b1111100000000000 1) = .ok (.rdHi 0xF800#16) ∧
    decode .xor100 (.mr 0b1111011111111111 1) = .ok (.rdLo 0xF7FF#16) ∧
    decode .xor100 (.mw 0b1111100000010000 1 0x55#16) = .ok (.wrWin 0xF810#16 0x55#8)

/-! ### The generic dispatcher of tr175 -/

/-- 20_memory R40, R44, R45 (decisions D27, D34): a one-byte read through the table: a `Direct` entry returns the region's
byte, an unmapped one its idle value, a handler one the adapter's byte where it answers on the lane of the address and has
a read entry point, else its idle byte. Two clauses are the model's choice: of entries that overlap, which R36 forbids, the
first answers (log 19, DESIGN CHOICE), and lanes `ALL`, which R45 does not list, are run as `BOTH` (log 28, DESIGN CHOICE). -/
def Obligations.GenericByteReadFollowsTheTable : Prop :=
  ∀ (s : State) (a : Addr24) (e : Entry), s.cfg.machine = .tr175 → lookup s.cfg.tr175Table.read a.toNat = some e →
    (∀ ref offset amask, e.target = .direct ref offset amask →
      offset + ((a.toNat - e.base) &&& amask) < s.regionSize ref →
      exec (.rdGen a .byte) s =
        .next { s with result := some (.byte (s.regionByte ref (offset + ((a.toNat - e.base) &&& amask)))) }) ∧
    (∀ idle, e.target = .unmapped idle → exec (.rdGen a .byte) s = .next { s with result := some (.byte idle.byte) }) ∧
    ∀ h lanes idle, e.target = .handler h lanes idle →
      let even : Bool := decide (a.toNat % 2 = 0)
      let answers := lanes = .all ∨ lanes = .both ∨ (lanes = .hi ∧ even = s.cfg.bus16BigEndian) ∨
        (lanes = .lo ∧ even ≠ s.cfg.bus16BigEndian)
      let r := if lanes = .hi ∨ lanes = .lo then (a.toNat - e.base) / 2 else a.toNat - e.base
      (answers ∧ h.canRead = true → exec (.rdGen a .byte) s = .next { s with
        result := some (.byte s.reply)
        calls := s.calls ++ [.read (.handler h.id) r]
        chipBytes := s.chipBytes.tail
        draws := if s.chipBytes.isEmpty then s.draws + 1 else s.draws }) ∧
      (¬(answers ∧ h.canRead = true) → exec (.rdGen a .byte) s = .next { s with result := some (.byte idle) })

/-- 20_memory R41, R43, R44, R45 (decisions D27, D33, D34): a one-byte write through the table: a `Direct` entry stores the
byte at the one region byte R37 gives, unless the region is read-only, and every other byte reads as before; an unmapped
one discards it; a handler one passes it to the adapter where it answers, else discards it. Two clauses are the
model's choice: of entries that overlap, which R36 forbids, the first answers (log 19, DESIGN CHOICE), and lanes `ALL`, which
R45 does not list, are run as `BOTH` (log 28, DESIGN CHOICE). -/
def Obligations.GenericByteWriteFollowsTheTable : Prop :=
  ∀ (s : State) (a : Addr24) (v : Byte) (e : Entry), s.cfg.machine = .tr175 →
    lookup s.cfg.tr175Table.write a.toNat = some e →
    (∀ ref offset amask, e.target = .direct ref offset amask →
      offset + ((a.toNat - e.base) &&& amask) < s.regionSize ref →
      ∃ t, exec (.wrGen a (.byte v)) s = .next t ∧ t = { s with ram := t.ram, regions := t.regions } ∧
        ∀ ref' i, t.regionByte ref' i =
          if ref' = ref ∧ i = offset + ((a.toNat - e.base) &&& amask) ∧ s.regionWritable ref = true then v
          else s.regionByte ref' i) ∧
    (∀ idle, e.target = .unmapped idle → exec (.wrGen a (.byte v)) s = .next s) ∧
    ∀ h lanes idle, e.target = .handler h lanes idle →
      let even : Bool := decide (a.toNat % 2 = 0)
      let answers := lanes = .all ∨ lanes = .both ∨ (lanes = .hi ∧ even = s.cfg.bus16BigEndian) ∨
        (lanes = .lo ∧ even ≠ s.cfg.bus16BigEndian)
      let r := if lanes = .hi ∨ lanes = .lo then (a.toNat - e.base) / 2 else a.toNat - e.base
      (answers ∧ h.canWrite = true →
        exec (.wrGen a (.byte v)) s = .next { s with calls := s.calls ++ [.write (.handler h.id) r v] }) ∧
      (¬(answers ∧ h.canWrite = true) → exec (.wrGen a (.byte v)) s = .next s)

/-- 20_memory R46 (decision D27): a 16-bit access is two byte accesses, the lower address first; the byte at the even
address is the high byte when `BUS16_BIG_ENDIAN`. -/
def Obligations.WordAccessIsTwoByteAccesses : Prop :=
  ∀ (s t u : State) (a : Addr24), s.cfg.machine = .tr175 → a.toNat % 2 = 0 →
    (∀ b0 b1, exec (.rdGen a .byte) s = .next t → t.result = some (.byte b0) →
      exec (.rdGen (a + 1#24) .byte) t = .next u → u.result = some (.byte b1) →
      exec (.rdGen a .word) s =
        .next { u with result := some (.word (if s.cfg.bus16BigEndian then b0 ++ b1 else b1 ++ b0)) }) ∧
    ∀ hi lo : Byte,
      exec (.wrGen a (.byte (if s.cfg.bus16BigEndian then hi else lo))) s = .next t →
      exec (.wrGen (a + 1#24) (.byte (if s.cfg.bus16BigEndian then lo else hi))) t = .next u →
      exec (.wrGen a (.word (hi ++ lo))) s = .next u

/-- 40 R74, 20_memory R36, R37, R41, R43, R46, R48, R54 (decisions D27, D29, D33): on a legal table every aligned access of
either width completes. A read leaves all but the answers and the collaborators' bytes alone. A write stores each byte at the
region byte its own address gives (`State.storedAt`: the index R37 gives in the entry the address is looked up to, nowhere
where the region is read-only or the entry is a handler or unmapped), the second byte of a word after the first; every other
byte of every region, every region's size and access mode, and all else but the calls are as before.That a table with an entry of lanes `ALL`
counts as legal, and completes, is the model's choice (log 28, DESIGN CHOICE). -/
def Obligations.GenericAccessesCompleteOnLegalTables : Prop :=
  ∀ (s : State) (a : Addr24) (n : Width) (d : BusData), s.cfg.machine = .tr175 → s.LegalTr175 →
    (n = .byte ∨ a.toNat % 2 = 0 → ∃ t, exec (.rdGen a n) s = .next t ∧
      t = { s with result := t.result, calls := t.calls, chipBytes := t.chipBytes, draws := t.draws } ∧
      ∃ x, t.result = some x ∧ x.width = n) ∧
    (d.width = .byte ∨ a.toNat % 2 = 0 → ∃ t, exec (.wrGen a d) s = .next t ∧
      t = { s with ram := t.ram, regions := t.regions, calls := t.calls } ∧
      t.regions.map (fun r => (r.size, r.writable)) = s.regions.map (fun r => (r.size, r.writable)) ∧
      (∀ v, d = .byte v → ∀ ref i, t.regionByte ref i =
        if s.storedAt s.cfg.tr175Table.write a.toNat = some (ref, i) then v else s.regionByte ref i) ∧
      ∀ v, d = .word v → ∀ ref i, t.regionByte ref i =
        if s.storedAt s.cfg.tr175Table.write (a.toNat + 1) = some (ref, i) then (splitWord s.cfg v).2
        else if s.storedAt s.cfg.tr175Table.write a.toNat = some (ref, i) then (splitWord s.cfg v).1
        else s.regionByte ref i)

/-- 20_memory R48, R49 (decisions D27, D28): a 16-bit access at an odd address is refused, and a two-byte request on xor100
is no transaction. -/
def Obligations.MisalignedAndWideRequestsAreRefused : Prop :=
  (∀ (s : State) (a : Addr24) (v : Word16), s.cfg.machine = .tr175 → a.toNat % 2 = 1 →
    exec (.rdGen a .word) s = .refused (.misalignedWord a.toNat) ∧
    exec (.wrGen a (.word v)) s = .refused (.misalignedWord a.toNat) ∧
    decode .tr175 (.mr a.toNat 2) = .error .misalignedWord ∧
    decode .tr175 (.mw a.toNat 2 v) = .error .misalignedWord) ∧
  ∀ (a : Nat) (v : Word16), a < 0x10000 →
    decode .xor100 (.mr a 2) = .error .badWidth ∧ decode .xor100 (.mw a 2 v) = .error .badWidth
end

