-- ==== Sys2Proof/Laws/State.lean ====
section
/-! SUPPORT. One lemma per field per shared state update, so that no proof unfolds a record update. -/

namespace Sys2Proof.Machine

section emit
variable (s : State) (c : Call)
@[simp] theorem emit_cfg : (s.emit c).cfg = s.cfg := rfl
@[simp] theorem emit_mode : (s.emit c).mode = s.mode := rfl
@[simp] theorem emit_selector : (s.emit c).selector = s.selector := rfl
@[simp] theorem emit_win : (s.emit c).win = s.win := rfl
@[simp] theorem emit_rom : (s.emit c).rom = s.rom := rfl
@[simp] theorem emit_ram : (s.emit c).ram = s.ram := rfl
@[simp] theorem emit_ramEra : (s.emit c).ramEra = s.ramEra := rfl
@[simp] theorem emit_regions : (s.emit c).regions = s.regions := rfl
@[simp] theorem emit_irq : (s.emit c).irq = s.irq := rfl
@[simp] theorem emit_drq : (s.emit c).drq = s.drq := rfl
@[simp] theorem emit_density : (s.emit c).density = s.density := rfl
@[simp] theorem emit_selectedDrive : (s.emit c).selectedDrive = s.selectedDrive := rfl
@[simp] theorem emit_motorOn : (s.emit c).motorOn = s.motorOn := rfl
@[simp] theorem emit_centBusy : (s.emit c).centBusy = s.centBusy := rfl
@[simp] theorem emit_centSelect : (s.emit c).centSelect = s.centSelect := rfl
@[simp] theorem emit_centData : (s.emit c).centData = s.centData := rfl
@[simp] theorem emit_centStrobe : (s.emit c).centStrobe = s.centStrobe := rfl
@[simp] theorem emit_baudA : (s.emit c).baudA = s.baudA := rfl
@[simp] theorem emit_baudB : (s.emit c).baudB = s.baudB := rfl
@[simp] theorem emit_fault : (s.emit c).fault = s.fault := rfl
@[simp] theorem emit_cpuWait : (s.emit c).cpuWait = s.cpuWait := rfl
@[simp] theorem emit_inputs : (s.emit c).inputs = s.inputs := rfl
@[simp] theorem emit_chipBytes : (s.emit c).chipBytes = s.chipBytes := rfl
@[simp] theorem emit_result : (s.emit c).result = s.result := rfl
@[simp] theorem emit_calls : (s.emit c).calls = s.calls ++ [c] := rfl
@[simp] theorem emit_draws : (s.emit c).draws = s.draws := rfl
end emit

section answer
variable (s : State) (d : BusData)
@[simp] theorem answer_cfg : (s.answer d).cfg = s.cfg := rfl
@[simp] theorem answer_mode : (s.answer d).mode = s.mode := rfl
@[simp] theorem answer_selector : (s.answer d).selector = s.selector := rfl
@[simp] theorem answer_win : (s.answer d).win = s.win := rfl
@[simp] theorem answer_rom : (s.answer d).rom = s.rom := rfl
@[simp] theorem answer_ram : (s.answer d).ram = s.ram := rfl
@[simp] theorem answer_ramEra : (s.answer d).ramEra = s.ramEra := rfl
@[simp] theorem answer_regions : (s.answer d).regions = s.regions := rfl
@[simp] theorem answer_irq : (s.answer d).irq = s.irq := rfl
@[simp] theorem answer_drq : (s.answer d).drq = s.drq := rfl
@[simp] theorem answer_density : (s.answer d).density = s.density := rfl
@[simp] theorem answer_selectedDrive : (s.answer d).selectedDrive = s.selectedDrive := rfl
@[simp] theorem answer_motorOn : (s.answer d).motorOn = s.motorOn := rfl
@[simp] theorem answer_centBusy : (s.answer d).centBusy = s.centBusy := rfl
@[simp] theorem answer_centSelect : (s.answer d).centSelect = s.centSelect := rfl
@[simp] theorem answer_centData : (s.answer d).centData = s.centData := rfl
@[simp] theorem answer_centStrobe : (s.answer d).centStrobe = s.centStrobe := rfl
@[simp] theorem answer_baudA : (s.answer d).baudA = s.baudA := rfl
@[simp] theorem answer_baudB : (s.answer d).baudB = s.baudB := rfl
@[simp] theorem answer_fault : (s.answer d).fault = s.fault := rfl
@[simp] theorem answer_cpuWait : (s.answer d).cpuWait = s.cpuWait := rfl
@[simp] theorem answer_inputs : (s.answer d).inputs = s.inputs := rfl
@[simp] theorem answer_chipBytes : (s.answer d).chipBytes = s.chipBytes := rfl
@[simp] theorem answer_result : (s.answer d).result = some d := rfl
@[simp] theorem answer_calls : (s.answer d).calls = s.calls := rfl
@[simp] theorem answer_draws : (s.answer d).draws = s.draws := rfl
end answer

section afterReply
variable (s : State)
@[simp] theorem afterReply_cfg : s.afterReply.cfg = s.cfg := rfl
@[simp] theorem afterReply_mode : s.afterReply.mode = s.mode := rfl
@[simp] theorem afterReply_selector : s.afterReply.selector = s.selector := rfl
@[simp] theorem afterReply_win : s.afterReply.win = s.win := rfl
@[simp] theorem afterReply_rom : s.afterReply.rom = s.rom := rfl
@[simp] theorem afterReply_ram : s.afterReply.ram = s.ram := rfl
@[simp] theorem afterReply_ramEra : s.afterReply.ramEra = s.ramEra := rfl
@[simp] theorem afterReply_regions : s.afterReply.regions = s.regions := rfl
@[simp] theorem afterReply_irq : s.afterReply.irq = s.irq := rfl
@[simp] theorem afterReply_drq : s.afterReply.drq = s.drq := rfl
@[simp] theorem afterReply_density : s.afterReply.density = s.density := rfl
@[simp] theorem afterReply_selectedDrive : s.afterReply.selectedDrive = s.selectedDrive := rfl
@[simp] theorem afterReply_motorOn : s.afterReply.motorOn = s.motorOn := rfl
@[simp] theorem afterReply_centBusy : s.afterReply.centBusy = s.centBusy := rfl
@[simp] theorem afterReply_centSelect : s.afterReply.centSelect = s.centSelect := rfl
@[simp] theorem afterReply_centData : s.afterReply.centData = s.centData := rfl
@[simp] theorem afterReply_centStrobe : s.afterReply.centStrobe = s.centStrobe := rfl
@[simp] theorem afterReply_baudA : s.afterReply.baudA = s.baudA := rfl
@[simp] theorem afterReply_baudB : s.afterReply.baudB = s.baudB := rfl
@[simp] theorem afterReply_fault : s.afterReply.fault = s.fault := rfl
@[simp] theorem afterReply_cpuWait : s.afterReply.cpuWait = s.cpuWait := rfl
@[simp] theorem afterReply_inputs : s.afterReply.inputs = s.inputs := rfl
@[simp] theorem afterReply_chipBytes : s.afterReply.chipBytes = s.chipBytes.tail := rfl
@[simp] theorem afterReply_result : s.afterReply.result = s.result := rfl
@[simp] theorem afterReply_calls : s.afterReply.calls = s.calls := rfl
@[simp] theorem afterReply_draws : s.afterReply.draws = if s.chipBytes.isEmpty then s.draws + 1 else s.draws := rfl
end afterReply

section chipRead
variable (s : State) (c : Chip) (r : Nat)
@[simp] theorem chipRead_cfg : (s.chipRead c r).cfg = s.cfg := rfl
@[simp] theorem chipRead_mode : (s.chipRead c r).mode = s.mode := rfl
@[simp] theorem chipRead_selector : (s.chipRead c r).selector = s.selector := rfl
@[simp] theorem chipRead_win : (s.chipRead c r).win = s.win := rfl
@[simp] theorem chipRead_rom : (s.chipRead c r).rom = s.rom := rfl
@[simp] theorem chipRead_ram : (s.chipRead c r).ram = s.ram := rfl
@[simp] theorem chipRead_ramEra : (s.chipRead c r).ramEra = s.ramEra := rfl
@[simp] theorem chipRead_regions : (s.chipRead c r).regions = s.regions := rfl
@[simp] theorem chipRead_irq : (s.chipRead c r).irq = s.irq := rfl
@[simp] theorem chipRead_drq : (s.chipRead c r).drq = s.drq := rfl
@[simp] theorem chipRead_density : (s.chipRead c r).density = s.density := rfl
@[simp] theorem chipRead_selectedDrive : (s.chipRead c r).selectedDrive = s.selectedDrive := rfl
@[simp] theorem chipRead_motorOn : (s.chipRead c r).motorOn = s.motorOn := rfl
@[simp] theorem chipRead_centBusy : (s.chipRead c r).centBusy = s.centBusy := rfl
@[simp] theorem chipRead_centSelect : (s.chipRead c r).centSelect = s.centSelect := rfl
@[simp] theorem chipRead_centData : (s.chipRead c r).centData = s.centData := rfl
@[simp] theorem chipRead_centStrobe : (s.chipRead c r).centStrobe = s.centStrobe := rfl
@[simp] theorem chipRead_baudA : (s.chipRead c r).baudA = s.baudA := rfl
@[simp] theorem chipRead_baudB : (s.chipRead c r).baudB = s.baudB := rfl
@[simp] theorem chipRead_fault : (s.chipRead c r).fault = s.fault := rfl
@[simp] theorem chipRead_cpuWait : (s.chipRead c r).cpuWait = s.cpuWait := rfl
@[simp] theorem chipRead_inputs : (s.chipRead c r).inputs = s.inputs := rfl
@[simp] theorem chipRead_chipBytes : (s.chipRead c r).chipBytes = s.chipBytes.tail := rfl
@[simp] theorem chipRead_result : (s.chipRead c r).result = s.result := rfl
@[simp] theorem chipRead_calls : (s.chipRead c r).calls = s.calls ++ [.read c r] := rfl
@[simp] theorem chipRead_draws : (s.chipRead c r).draws = if s.chipBytes.isEmpty then s.draws + 1 else s.draws := rfl
end chipRead

section rebind
variable (s : State)
@[simp] theorem rebind_cfg : s.rebind.cfg = s.cfg := rfl
@[simp] theorem rebind_mode : s.rebind.mode = s.mode := rfl
@[simp] theorem rebind_selector : s.rebind.selector = s.selector := rfl
@[simp] theorem rebind_win : s.rebind.win = bind s.cfg s.mode s.selector := rfl
@[simp] theorem rebind_rom : s.rebind.rom = s.rom := rfl
@[simp] theorem rebind_ram : s.rebind.ram = s.ram := rfl
@[simp] theorem rebind_ramEra : s.rebind.ramEra = s.ramEra := rfl
@[simp] theorem rebind_regions : s.rebind.regions = s.regions := rfl
@[simp] theorem rebind_irq : s.rebind.irq = s.irq := rfl
@[simp] theorem rebind_drq : s.rebind.drq = s.drq := rfl
@[simp] theorem rebind_density : s.rebind.density = s.density := rfl
@[simp] theorem rebind_selectedDrive : s.rebind.selectedDrive = s.selectedDrive := rfl
@[simp] theorem rebind_motorOn : s.rebind.motorOn = s.motorOn := rfl
@[simp] theorem rebind_centBusy : s.rebind.centBusy = s.centBusy := rfl
@[simp] theorem rebind_centSelect : s.rebind.centSelect = s.centSelect := rfl
@[simp] theorem rebind_centData : s.rebind.centData = s.centData := rfl
@[simp] theorem rebind_centStrobe : s.rebind.centStrobe = s.centStrobe := rfl
@[simp] theorem rebind_baudA : s.rebind.baudA = s.baudA := rfl
@[simp] theorem rebind_baudB : s.rebind.baudB = s.baudB := rfl
@[simp] theorem rebind_fault : s.rebind.fault = s.fault := rfl
@[simp] theorem rebind_cpuWait : s.rebind.cpuWait = s.cpuWait := rfl
@[simp] theorem rebind_inputs : s.rebind.inputs = s.inputs := rfl
@[simp] theorem rebind_chipBytes : s.rebind.chipBytes = s.chipBytes := rfl
@[simp] theorem rebind_result : s.rebind.result = s.result := rfl
@[simp] theorem rebind_calls : s.rebind.calls = s.calls := rfl
@[simp] theorem rebind_draws : s.rebind.draws = s.draws := rfl
end rebind

section writeRam
variable (s : State) (i : Nat) (v : Byte)
@[simp] theorem writeRam_cfg : (s.writeRam i v).cfg = s.cfg := rfl
@[simp] theorem writeRam_mode : (s.writeRam i v).mode = s.mode := rfl
@[simp] theorem writeRam_selector : (s.writeRam i v).selector = s.selector := rfl
@[simp] theorem writeRam_win : (s.writeRam i v).win = s.win := rfl
@[simp] theorem writeRam_rom : (s.writeRam i v).rom = s.rom := rfl
@[simp] theorem writeRam_ram : (s.writeRam i v).ram = Memory.write s.ram i v := rfl
@[simp] theorem writeRam_ramEra : (s.writeRam i v).ramEra = s.ramEra := rfl
@[simp] theorem writeRam_regions : (s.writeRam i v).regions = s.regions := rfl
@[simp] theorem writeRam_irq : (s.writeRam i v).irq = s.irq := rfl
@[simp] theorem writeRam_drq : (s.writeRam i v).drq = s.drq := rfl
@[simp] theorem writeRam_density : (s.writeRam i v).density = s.density := rfl
@[simp] theorem writeRam_selectedDrive : (s.writeRam i v).selectedDrive = s.selectedDrive := rfl
@[simp] theorem writeRam_motorOn : (s.writeRam i v).motorOn = s.motorOn := rfl
@[simp] theorem writeRam_centBusy : (s.writeRam i v).centBusy = s.centBusy := rfl
@[simp] theorem writeRam_centSelect : (s.writeRam i v).centSelect = s.centSelect := rfl
@[simp] theorem writeRam_centData : (s.writeRam i v).centData = s.centData := rfl
@[simp] theorem writeRam_centStrobe : (s.writeRam i v).centStrobe = s.centStrobe := rfl
@[simp] theorem writeRam_baudA : (s.writeRam i v).baudA = s.baudA := rfl
@[simp] theorem writeRam_baudB : (s.writeRam i v).baudB = s.baudB := rfl
@[simp] theorem writeRam_fault : (s.writeRam i v).fault = s.fault := rfl
@[simp] theorem writeRam_cpuWait : (s.writeRam i v).cpuWait = s.cpuWait := rfl
@[simp] theorem writeRam_inputs : (s.writeRam i v).inputs = s.inputs := rfl
@[simp] theorem writeRam_chipBytes : (s.writeRam i v).chipBytes = s.chipBytes := rfl
@[simp] theorem writeRam_result : (s.writeRam i v).result = s.result := rfl
@[simp] theorem writeRam_calls : (s.writeRam i v).calls = s.calls := rfl
@[simp] theorem writeRam_draws : (s.writeRam i v).draws = s.draws := rfl
end writeRam

section driveWait
variable (s : State)
@[simp] theorem driveWait_cfg : s.driveWait.cfg = s.cfg := rfl
@[simp] theorem driveWait_mode : s.driveWait.mode = s.mode := rfl
@[simp] theorem driveWait_selector : s.driveWait.selector = s.selector := rfl
@[simp] theorem driveWait_win : s.driveWait.win = s.win := rfl
@[simp] theorem driveWait_rom : s.driveWait.rom = s.rom := rfl
@[simp] theorem driveWait_ram : s.driveWait.ram = s.ram := rfl
@[simp] theorem driveWait_ramEra : s.driveWait.ramEra = s.ramEra := rfl
@[simp] theorem driveWait_regions : s.driveWait.regions = s.regions := rfl
@[simp] theorem driveWait_irq : s.driveWait.irq = s.irq := rfl
@[simp] theorem driveWait_drq : s.driveWait.drq = s.drq := rfl
@[simp] theorem driveWait_density : s.driveWait.density = s.density := rfl
@[simp] theorem driveWait_selectedDrive : s.driveWait.selectedDrive = s.selectedDrive := rfl
@[simp] theorem driveWait_motorOn : s.driveWait.motorOn = s.motorOn := rfl
@[simp] theorem driveWait_centBusy : s.driveWait.centBusy = s.centBusy := rfl
@[simp] theorem driveWait_centSelect : s.driveWait.centSelect = s.centSelect := rfl
@[simp] theorem driveWait_centData : s.driveWait.centData = s.centData := rfl
@[simp] theorem driveWait_centStrobe : s.driveWait.centStrobe = s.centStrobe := rfl
@[simp] theorem driveWait_baudA : s.driveWait.baudA = s.baudA := rfl
@[simp] theorem driveWait_baudB : s.driveWait.baudB = s.baudB := rfl
@[simp] theorem driveWait_fault : s.driveWait.fault = s.fault := rfl
@[simp] theorem driveWait_cpuWait : s.driveWait.cpuWait = true := rfl
@[simp] theorem driveWait_inputs : s.driveWait.inputs = s.inputs := rfl
@[simp] theorem driveWait_chipBytes : s.driveWait.chipBytes = s.chipBytes := rfl
@[simp] theorem driveWait_result : s.driveWait.result = s.result := rfl
@[simp] theorem driveWait_calls : s.driveWait.calls = s.calls ++ [.cpuWait true] := rfl
@[simp] theorem driveWait_draws : s.driveWait.draws = s.draws := rfl
end driveWait

section stallMayEnd
variable (s : State)
@[simp] theorem stallMayEnd_cfg : s.stallMayEnd.cfg = s.cfg := rfl
@[simp] theorem stallMayEnd_mode : s.stallMayEnd.mode = s.mode := rfl
@[simp] theorem stallMayEnd_selector : s.stallMayEnd.selector = s.selector := rfl
@[simp] theorem stallMayEnd_win : s.stallMayEnd.win = s.win := rfl
@[simp] theorem stallMayEnd_rom : s.stallMayEnd.rom = s.rom := rfl
@[simp] theorem stallMayEnd_ram : s.stallMayEnd.ram = s.ram := rfl
@[simp] theorem stallMayEnd_ramEra : s.stallMayEnd.ramEra = s.ramEra := rfl
@[simp] theorem stallMayEnd_regions : s.stallMayEnd.regions = s.regions := rfl
@[simp] theorem stallMayEnd_irq : s.stallMayEnd.irq = s.irq := rfl
@[simp] theorem stallMayEnd_drq : s.stallMayEnd.drq = s.drq := rfl
@[simp] theorem stallMayEnd_density : s.stallMayEnd.density = s.density := rfl
@[simp] theorem stallMayEnd_selectedDrive : s.stallMayEnd.selectedDrive = s.selectedDrive := rfl
@[simp] theorem stallMayEnd_motorOn : s.stallMayEnd.motorOn = s.motorOn := rfl
@[simp] theorem stallMayEnd_centBusy : s.stallMayEnd.centBusy = s.centBusy := rfl
@[simp] theorem stallMayEnd_centSelect : s.stallMayEnd.centSelect = s.centSelect := rfl
@[simp] theorem stallMayEnd_centData : s.stallMayEnd.centData = s.centData := rfl
@[simp] theorem stallMayEnd_centStrobe : s.stallMayEnd.centStrobe = s.centStrobe := rfl
@[simp] theorem stallMayEnd_baudA : s.stallMayEnd.baudA = s.baudA := rfl
@[simp] theorem stallMayEnd_baudB : s.stallMayEnd.baudB = s.baudB := rfl
@[simp] theorem stallMayEnd_fault : s.stallMayEnd.fault = s.fault := rfl
@[simp] theorem stallMayEnd_cpuWait : s.stallMayEnd.cpuWait = (s.cpuWait && Config.free1 s.draws) := rfl
@[simp] theorem stallMayEnd_inputs : s.stallMayEnd.inputs = s.inputs := rfl
@[simp] theorem stallMayEnd_chipBytes : s.stallMayEnd.chipBytes = s.chipBytes := rfl
@[simp] theorem stallMayEnd_result : s.stallMayEnd.result = s.result := rfl
@[simp] theorem stallMayEnd_calls : s.stallMayEnd.calls = s.calls := rfl
@[simp] theorem stallMayEnd_draws : s.stallMayEnd.draws = if s.cpuWait then s.draws + 1 else s.draws := rfl
end stallMayEnd

section accept
variable (s : State) (rest : List BusItem)
@[simp] theorem accept_cfg : (s.accept rest).cfg = s.cfg := rfl
@[simp] theorem accept_mode : (s.accept rest).mode = s.mode := rfl
@[simp] theorem accept_selector : (s.accept rest).selector = s.selector := rfl
@[simp] theorem accept_win : (s.accept rest).win = s.win := rfl
@[simp] theorem accept_rom : (s.accept rest).rom = s.rom := rfl
@[simp] theorem accept_ram : (s.accept rest).ram = s.ram := rfl
@[simp] theorem accept_ramEra : (s.accept rest).ramEra = s.ramEra := rfl
@[simp] theorem accept_regions : (s.accept rest).regions = s.regions := rfl
@[simp] theorem accept_irq : (s.accept rest).irq = s.irq := rfl
@[simp] theorem accept_drq : (s.accept rest).drq = s.drq := rfl
@[simp] theorem accept_density : (s.accept rest).density = s.density := rfl
@[simp] theorem accept_selectedDrive : (s.accept rest).selectedDrive = s.selectedDrive := rfl
@[simp] theorem accept_motorOn : (s.accept rest).motorOn = s.motorOn := rfl
@[simp] theorem accept_centBusy : (s.accept rest).centBusy = s.centBusy := rfl
@[simp] theorem accept_centSelect : (s.accept rest).centSelect = s.centSelect := rfl
@[simp] theorem accept_centData : (s.accept rest).centData = s.centData := rfl
@[simp] theorem accept_centStrobe : (s.accept rest).centStrobe = s.centStrobe := rfl
@[simp] theorem accept_baudA : (s.accept rest).baudA = s.baudA := rfl
@[simp] theorem accept_baudB : (s.accept rest).baudB = s.baudB := rfl
@[simp] theorem accept_fault : (s.accept rest).fault = s.fault := rfl
@[simp] theorem accept_cpuWait : (s.accept rest).cpuWait = s.cpuWait := rfl
@[simp] theorem accept_inputs : (s.accept rest).inputs = rest := rfl
@[simp] theorem accept_chipBytes : (s.accept rest).chipBytes = s.chipBytes := rfl
@[simp] theorem accept_result : (s.accept rest).result = none := rfl
@[simp] theorem accept_calls : (s.accept rest).calls = [] := rfl
@[simp] theorem accept_draws : (s.accept rest).draws = s.draws := rfl
end accept

section load
variable (s : State) (p : Persisted)
@[simp] theorem load_cfg : (s.load p).cfg = s.cfg := rfl
@[simp] theorem load_mode : (s.load p).mode = p.mode := rfl
@[simp] theorem load_selector : (s.load p).selector = p.selector := rfl
@[simp] theorem load_win : (s.load p).win = bind s.cfg p.mode p.selector := rfl
@[simp] theorem load_rom : (s.load p).rom = s.rom := rfl
@[simp] theorem load_ram : (s.load p).ram = s.ram := rfl
@[simp] theorem load_ramEra : (s.load p).ramEra = s.ramEra := rfl
@[simp] theorem load_regions : (s.load p).regions = s.regions := rfl
@[simp] theorem load_irq : (s.load p).irq = p.irq := rfl
@[simp] theorem load_drq : (s.load p).drq = p.drq := rfl
@[simp] theorem load_density : (s.load p).density = p.density := rfl
@[simp] theorem load_selectedDrive : (s.load p).selectedDrive = s.selectedDrive := rfl
@[simp] theorem load_motorOn : (s.load p).motorOn = s.motorOn := rfl
@[simp] theorem load_centBusy : (s.load p).centBusy = p.busy := rfl
@[simp] theorem load_centSelect : (s.load p).centSelect = p.select := rfl
@[simp] theorem load_centData : (s.load p).centData = s.centData := rfl
@[simp] theorem load_centStrobe : (s.load p).centStrobe = s.centStrobe := rfl
@[simp] theorem load_baudA : (s.load p).baudA = s.baudA := rfl
@[simp] theorem load_baudB : (s.load p).baudB = s.baudB := rfl
@[simp] theorem load_fault : (s.load p).fault = s.fault := rfl
@[simp] theorem load_cpuWait : (s.load p).cpuWait = s.cpuWait := rfl
@[simp] theorem load_inputs : (s.load p).inputs = s.inputs := rfl
@[simp] theorem load_chipBytes : (s.load p).chipBytes = s.chipBytes := rfl
@[simp] theorem load_result : (s.load p).result = s.result := rfl
@[simp] theorem load_calls : (s.load p).calls = s.calls := rfl
@[simp] theorem load_draws : (s.load p).draws = s.draws := rfl
end load

section powerOn
variable (s : State)
@[simp] theorem powerOn_cfg : s.powerOn.cfg = s.cfg := rfl
@[simp] theorem powerOn_mode : s.powerOn.mode = .zero := rfl
@[simp] theorem powerOn_selector : s.powerOn.selector = s.cfg.selectorPowerOn := rfl
@[simp] theorem powerOn_win : s.powerOn.win = bind s.cfg .zero s.cfg.selectorPowerOn := rfl
@[simp] theorem powerOn_rom : s.powerOn.rom = s.rom := rfl
@[simp] theorem powerOn_ram : s.powerOn.ram = [] := rfl
@[simp] theorem powerOn_ramEra : s.powerOn.ramEra = s.draws := rfl
@[simp] theorem powerOn_regions : s.powerOn.regions = s.regions.map Region.fresh := rfl
@[simp] theorem powerOn_irq : s.powerOn.irq = false := rfl
@[simp] theorem powerOn_drq : s.powerOn.drq = false := rfl
@[simp] theorem powerOn_density : s.powerOn.density = false := rfl
@[simp] theorem powerOn_selectedDrive : s.powerOn.selectedDrive = none := rfl
@[simp] theorem powerOn_motorOn : s.powerOn.motorOn = ⟨false, false, false, false⟩ := rfl
@[simp] theorem powerOn_centBusy : s.powerOn.centBusy = false := rfl
@[simp] theorem powerOn_centSelect : s.powerOn.centSelect = false := rfl
@[simp] theorem powerOn_centData : s.powerOn.centData = Config.free8 s.draws := rfl
@[simp] theorem powerOn_centStrobe : s.powerOn.centStrobe = Config.free1 s.draws := rfl
@[simp] theorem powerOn_baudA : s.powerOn.baudA = Config.free4 s.draws := rfl
@[simp] theorem powerOn_baudB : s.powerOn.baudB = Config.free4 (s.draws + 1) := rfl
@[simp] theorem powerOn_fault : s.powerOn.fault = none := rfl
@[simp] theorem powerOn_cpuWait : s.powerOn.cpuWait = false := rfl
@[simp] theorem powerOn_inputs : s.powerOn.inputs = s.inputs := rfl
@[simp] theorem powerOn_chipBytes : s.powerOn.chipBytes = s.chipBytes := rfl
@[simp] theorem powerOn_result : s.powerOn.result = s.result := rfl
@[simp] theorem powerOn_calls : s.powerOn.calls = s.calls := rfl
@[simp] theorem powerOn_draws : s.powerOn.draws = s.draws + 2 := rfl
end powerOn

section writeRegion
variable (s : State) (ref : RegionRef) (i : Nat) (v : Byte)
@[simp] theorem writeRegion_cfg : (s.writeRegion ref i v).cfg = s.cfg := by cases ref <;> rfl
@[simp] theorem writeRegion_mode : (s.writeRegion ref i v).mode = s.mode := by cases ref <;> rfl
@[simp] theorem writeRegion_selector : (s.writeRegion ref i v).selector = s.selector := by cases ref <;> rfl
@[simp] theorem writeRegion_win : (s.writeRegion ref i v).win = s.win := by cases ref <;> rfl
@[simp] theorem writeRegion_rom : (s.writeRegion ref i v).rom = s.rom := by cases ref <;> rfl
@[simp] theorem writeRegion_ramEra : (s.writeRegion ref i v).ramEra = s.ramEra := by cases ref <;> rfl
@[simp] theorem writeRegion_irq : (s.writeRegion ref i v).irq = s.irq := by cases ref <;> rfl
@[simp] theorem writeRegion_drq : (s.writeRegion ref i v).drq = s.drq := by cases ref <;> rfl
@[simp] theorem writeRegion_density : (s.writeRegion ref i v).density = s.density := by cases ref <;> rfl
@[simp] theorem writeRegion_selectedDrive : (s.writeRegion ref i v).selectedDrive = s.selectedDrive := by cases ref <;> rfl
@[simp] theorem writeRegion_motorOn : (s.writeRegion ref i v).motorOn = s.motorOn := by cases ref <;> rfl
@[simp] theorem writeRegion_centBusy : (s.writeRegion ref i v).centBusy = s.centBusy := by cases ref <;> rfl
@[simp] theorem writeRegion_centSelect : (s.writeRegion ref i v).centSelect = s.centSelect := by cases ref <;> rfl
@[simp] theorem writeRegion_centData : (s.writeRegion ref i v).centData = s.centData := by cases ref <;> rfl
@[simp] theorem writeRegion_centStrobe : (s.writeRegion ref i v).centStrobe = s.centStrobe := by cases ref <;> rfl
@[simp] theorem writeRegion_baudA : (s.writeRegion ref i v).baudA = s.baudA := by cases ref <;> rfl
@[simp] theorem writeRegion_baudB : (s.writeRegion ref i v).baudB = s.baudB := by cases ref <;> rfl
@[simp] theorem writeRegion_fault : (s.writeRegion ref i v).fault = s.fault := by cases ref <;> rfl
@[simp] theorem writeRegion_cpuWait : (s.writeRegion ref i v).cpuWait = s.cpuWait := by cases ref <;> rfl
@[simp] theorem writeRegion_inputs : (s.writeRegion ref i v).inputs = s.inputs := by cases ref <;> rfl
@[simp] theorem writeRegion_chipBytes : (s.writeRegion ref i v).chipBytes = s.chipBytes := by cases ref <;> rfl
@[simp] theorem writeRegion_result : (s.writeRegion ref i v).result = s.result := by cases ref <;> rfl
@[simp] theorem writeRegion_calls : (s.writeRegion ref i v).calls = s.calls := by cases ref <;> rfl
@[simp] theorem writeRegion_draws : (s.writeRegion ref i v).draws = s.draws := by cases ref <;> rfl
end writeRegion

end Sys2Proof.Machine
end

