-- ==== Sys2Proof/Laws/Memory.lean ====
section
/-! SUPPORT. Reading after writing, the canonical form every memory operation keeps, and the reads of the regions of the
state. -/

namespace Sys2Proof.Machine

theorem find_write (m : Memory) (a b : Nat) (v : Byte) :
    Memory.find (Memory.write m a v) b = if a = b then some v else Memory.find m b := by
  induction m with
  | nil => simp [Memory.write, Memory.find]
  | cons c rest ih =>
    obtain ⟨k, w⟩ := c
    simp only [Memory.write]
    split
    · simp [Memory.find]
    · split
      · subst_vars; simp only [Memory.find]; split <;> rfl
      · simp only [Memory.find, ih]
        split <;> split <;> simp_all

theorem write_risingFrom (m : Memory) (a low : Nat) (v : Byte) (hl : low ≤ a) (h : Memory.risingFrom m low = true) :
    Memory.risingFrom (Memory.write m a v) low = true := by
  induction m generalizing low with
  | nil => simpa [Memory.write, Memory.risingFrom] using hl
  | cons c rest ih =>
    obtain ⟨k, w⟩ := c
    simp only [Memory.risingFrom, Bool.and_eq_true, decide_eq_true_eq] at h
    simp only [Memory.write]
    split
    · simp only [Memory.risingFrom, Bool.and_eq_true, decide_eq_true_eq]
      exact ⟨hl, by omega, h.2⟩
    · split
      · subst_vars; simp only [Memory.risingFrom, Bool.and_eq_true, decide_eq_true_eq]; exact h
      · simp only [Memory.risingFrom, Bool.and_eq_true, decide_eq_true_eq]
        exact ⟨h.1, ih (k + 1) (by omega) h.2⟩

/-- A write keeps the canonical form. -/
theorem write_wf (m : Memory) (a : Nat) (v : Byte) (h : Memory.wf m = true) : Memory.wf (Memory.write m a v) = true :=
  write_risingFrom m a 0 v (Nat.zero_le a) h

/-- A write inside the region keeps the bytes inside it. -/
theorem write_within (m : Memory) (a size : Nat) (v : Byte) (ha : a < size) (h : Memory.within m size = true) :
    Memory.within (Memory.write m a v) size = true := by
  induction m with
  | nil => simpa [Memory.write, Memory.within] using ha
  | cons c rest ih =>
    obtain ⟨k, w⟩ := c
    simp only [Memory.within, List.all_cons, Bool.and_eq_true, decide_eq_true_eq] at h ih
    simp only [Memory.write, Memory.within]
    split
    · simp [h, ha]
    · split
      · simp [h, ha]
      · simp [h.1, ih h.2]

theorem reset_memoryWf : State.reset.MemoryWf := by
  refine ⟨⟨rfl, rfl⟩, ⟨rfl, rfl⟩, fun r hr => ?_⟩
  simp [State.reset] at hr

/-! Reads of the state's regions. -/

theorem ramByte_writeRam (s : State) (i j : Nat) (v : Byte) :
    (s.writeRam i v).ramByte j = if i = j then v else s.ramByte j := by
  simp only [State.ramByte, writeRam_ram, writeRam_ramEra, find_write]
  split <;> rfl

@[simp] theorem romByte_writeRam (s : State) (i j : Nat) (v : Byte) : (s.writeRam i v).romByte j = s.romByte j := rfl

@[simp] theorem otherByte_writeRam (s : State) (i k j : Nat) (v : Byte) :
    (s.writeRam i v).otherByte k j = s.otherByte k j := rfl

theorem region_write_size (r : Region) (i : Nat) (v : Byte) : (r.write i v).size = r.size := by
  unfold Region.write; split <;> rfl

theorem region_write_writable (r : Region) (i : Nat) (v : Byte) : (r.write i v).writable = r.writable := by
  unfold Region.write; split <;> rfl

/-- A write inside a generic region keeps its form; into a read-only one it is discarded. -/
theorem region_write_wf (r : Region) (i : Nat) (v : Byte) (hi : i < r.size) (h : Region.Wf r) :
    Region.Wf (r.write i v) := by
  unfold Region.write
  split
  · exact ⟨write_wf _ _ _ h.1, write_within _ _ _ _ hi h.2⟩
  · exact h

theorem region_fresh_wf (r : Region) (h : Region.Wf r) : Region.Wf r.fresh := by
  unfold Region.fresh
  split
  · exact ⟨rfl, rfl⟩
  · exact h

/-- No write changes a region's size. -/
@[simp] theorem regionSize_writeRegion (s : State) (ref ref' : RegionRef) (i : Nat) (v : Byte) :
    (s.writeRegion ref i v).regionSize ref' = s.regionSize ref' := by
  cases ref with
  | rom => rfl
  | ram => rfl
  | other k =>
    cases ref' with
    | rom => rfl
    | ram => rfl
    | other k' =>
      simp only [State.writeRegion, State.regionSize, List.getElem?_modify]
      cases h : s.regions[k']? with
      | none => rfl
      | some r => by_cases hk : k = k' <;> simp [hk, region_write_size]

/-- No write changes a region's size or access mode. -/
@[simp] theorem regions_writeRegion (s : State) (ref : RegionRef) (i : Nat) (v : Byte) :
    (s.writeRegion ref i v).regions.map (fun r => (r.size, r.writable)) = s.regions.map fun r => (r.size, r.writable) := by
  cases ref with
  | rom => rfl
  | ram => rfl
  | other k =>
    refine List.ext_getElem? fun j => ?_
    simp only [State.writeRegion, List.getElem?_map, List.getElem?_modify]
    cases s.regions[j]? with
    | none => rfl
    | some r => by_cases hk : k = j <;> simp [hk, region_write_size, region_write_writable]

/-- Whether a region may be written depends on the regions' access modes alone. -/
theorem regionWritable_congr {s t : State}
    (h : t.regions.map (fun r => (r.size, r.writable)) = s.regions.map fun r => (r.size, r.writable))
    (ref : RegionRef) : t.regionWritable ref = s.regionWritable ref := by
  cases ref with
  | rom => rfl
  | ram => rfl
  | other k =>
    have hk := congrArg (·[k]?) h
    simp only [List.getElem?_map] at hk
    simp only [State.regionWritable]
    cases ht : t.regions[k]? <;> cases hs : s.regions[k]? <;> simp_all

@[simp] theorem regionWritable_writeRegion (s : State) (ref ref' : RegionRef) (i : Nat) (v : Byte) :
    (s.writeRegion ref i v).regionWritable ref' = s.regionWritable ref' :=
  regionWritable_congr (regions_writeRegion s ref i v) ref'

/-- A write changes the one byte it addresses, and that one only where its region may be written (20_memory R41, R43). -/
theorem regionByte_writeRegion (s : State) (ref ref' : RegionRef) (i j : Nat) (v : Byte) :
    (s.writeRegion ref i v).regionByte ref' j =
      if ref' = ref ∧ j = i ∧ s.regionWritable ref = true then v else s.regionByte ref' j := by
  cases ref with
  | rom => simp [State.writeRegion, State.regionWritable]
  | ram =>
    cases ref' with
    | rom => simp [State.writeRegion, State.regionByte]
    | ram => simp [State.writeRegion, State.regionByte, ramByte_writeRam, State.regionWritable, eq_comm]
    | other k => simp [State.writeRegion, State.regionByte]
  | other k =>
    cases ref' with
    | rom => simp only [reduceCtorEq, false_and, if_false]; rfl
    | ram => simp only [reduceCtorEq, false_and, if_false]; rfl
    | other k' =>
      simp only [State.writeRegion, State.regionByte, State.otherByte, State.regionWritable, List.getElem?_modify]
      by_cases hk : k = k'
      · subst hk
        obtain hr | ⟨r, hr⟩ : s.regions[k]? = none ∨ ∃ r, s.regions[k]? = some r := by cases s.regions[k]? <;> simp
        · simp [hr]
        · simp only [hr]
          cases hw : r.writable
          · simp [Region.write, hw]
          · simp only [Option.map_eq_map, Option.map_some, if_true, Region.write, hw, find_write, and_true, true_and]
            by_cases hij : i = j
            · simp [hij]
            · rw [if_neg hij, if_neg (Ne.symm hij)]
      · cases s.regions[k']? with
        | none => simp [Ne.symm hk]
        | some r => simp [hk, Ne.symm hk]

/-- The canonical form of every region survives a write inside the region. -/
theorem writeRegion_memoryWf (s : State) (ref : RegionRef) (i : Nat) (v : Byte) (hi : i < s.regionSize ref)
    (h : s.MemoryWf) : (s.writeRegion ref i v).MemoryWf := by
  obtain ⟨hrom, hram, hreg⟩ := h
  cases ref with
  | rom => exact ⟨hrom, hram, hreg⟩
  | ram => exact ⟨hrom, ⟨write_wf _ _ _ hram.1, write_within _ _ _ _ hi hram.2⟩, hreg⟩
  | other k =>
    refine ⟨hrom, hram, fun r hr => ?_⟩
    obtain ⟨j, hj, rfl⟩ := List.mem_iff_getElem.1 hr
    simp only [State.writeRegion, List.getElem_modify]
    have hj' : j < s.regions.length := by simpa [State.writeRegion] using hj
    split
    · subst_vars
      refine region_write_wf _ _ _ ?_ (hreg _ (List.getElem_mem hj'))
      simpa [State.regionSize, List.getElem?_eq_getElem hj'] using hi
    · exact hreg _ (List.getElem_mem hj')

end Sys2Proof.Machine
end

