-- ==== Sys2Proof/Laws/Ops.lean ====
section
/-! SUPPORT. One lemma per shared operation that says everything it can do: the machine check, the binding function, the
wait request, the dispatcher's byte accesses. -/

namespace Sys2Proof.Machine

theorem onXor100_of (s : State) (run : State → Result) (h : s.cfg.machine = .xor100) : onXor100 s run = run s := by
  simp [onXor100, h]

theorem onXor100_next {s t : State} {run : State → Result} (h : onXor100 s run = .next t) :
    s.cfg.machine = .xor100 ∧ run s = .next t := by
  unfold onXor100 at h
  split at h
  · exact ⟨‹_›, h⟩
  · cases h

theorem onXor100_fault {s : State} {f : Fault} {run : State → Result} (h : onXor100 s run = .fault f) :
    s.cfg.machine = .xor100 ∧ run s = .fault f := by
  unfold onXor100 at h
  split at h
  · exact ⟨‹_›, h⟩
  · cases h

theorem onTr175_of (s : State) (run : State → Result) (h : s.cfg.machine = .tr175) : onTr175 s run = run s := by
  simp [onTr175, h]

theorem onTr175_next {s t : State} {run : State → Result} (h : onTr175 s run = .next t) :
    s.cfg.machine = .tr175 ∧ run s = .next t := by
  unfold onTr175 at h
  split at h
  · exact ⟨‹_›, h⟩
  · cases h

/-- A wait request ends the step in the fault, or drives the line and goes on (44 R121). -/
theorem waitRequest_cases (cause : WaitCause) (s : State) (rest : State → Result) :
    (s.cfg.hostWait = .unsupported ∧
      waitRequest cause s rest = .fault (.unsupportedWaitState cause { s with fault := some cause })) ∨
    (s.cfg.hostWait = .stall ∧ waitRequest cause s rest = rest s.driveWait) := by
  cases h : s.cfg.hostWait <;> simp [waitRequest, raiseUnsupported, h]

theorem inRange_iff (cfg : Config) (q : BitVec 3) : inRange cfg q = true ↔ q.toNat < cfg.bankCount.val := by
  simp [inRange]

/-- A bank in range lies inside the RAM region (41 R82(d)). -/
theorem physRam_lt (cfg : Config) (q : BitVec 3) (a : Addr16) (h : q.toNat < cfg.bankCount.val) :
    physRam q a < ramSize cfg := by
  have := a.isLt
  simp only [physRam, ramSize, bankSize]
  omega

theorem romIndex_eq (a : Addr16) : romIndex a = a.toNat % romSize := by
  simp [romIndex, romSize, BitVec.extractLsb'_toNat]

/-- The columns of the binding table: W (41 R75). -/
theorem bind_w (cfg : Config) (m : Mode) (q : BitVec 3) :
    (bind cfg m q).w = if q.toNat < cfg.bankCount.val then .ram q else .detached := by
  by_cases h : q.toNat < cfg.bankCount.val <;> cases m <;> simp [bind, inRange, h]

/-- The columns of the binding table: RL (41 R75). -/
theorem bind_rl (cfg : Config) (m : Mode) (q : BitVec 3) :
    (bind cfg m q).rl =
      if m = .zero then .romMirror else if q.toNat < cfg.bankCount.val then .ram q else .detached := by
  by_cases h : q.toNat < cfg.bankCount.val <;> cases m <;> simp [bind, inRange, h]

/-- The columns of the binding table: RH (41 R75). -/
theorem bind_rh (cfg : Config) (m : Mode) (q : BitVec 3) :
    (bind cfg m q).rh =
      if m = .off then (if q.toNat < cfg.bankCount.val then .ram q else .detached) else .rom := by
  by_cases h : q.toNat < cfg.bankCount.val <;> cases m <;> simp [bind, inRange, h]

/-- With no stall in progress a floppy line event leaves the wait line and the free values alone. -/
theorem stallMayEnd_of_free (s : State) (h : s.cpuWait = false) : s.stallMayEnd = s := by
  obtain ⟨cfg, mode, selector, win, rom, ram, ramEra, regions, irq, drq, density, sd, mo, cb, cs, cd, cst, ba, bb, fault,
    cpuWait, inputs, chipBytes, result, calls, draws⟩ := s
  simp_all [State.stallMayEnd]

/-- A byte read through a table changes nothing, or is one call of a handler's read entry point (20_memory R40, R44). -/
theorem memReadByte_some {t : List Entry} {a : Nat} {s s' : State} {b : Byte} (h : memReadByte t a s = some (b, s')) :
    s' = s ∨ ∃ c r, s' = s.chipRead c r ∧ b = s.reply := by
  unfold memReadByte at h
  split at h
  · cases h
  · split at h
    · split at h
      · cases h; exact .inl rfl
      · cases h
    · simp only [handlerRead] at h
      split at h
      · cases h; exact .inr ⟨_, _, rfl, rfl⟩
      · cases h; exact .inl rfl
    · cases h; exact .inl rfl

/-- A byte write through a table changes nothing, stores one byte inside one region, or is one call of a handler's write
entry point (20_memory R41, R44). -/
theorem memWriteByte_some {t : List Entry} {a : Nat} {v : Byte} {s s' : State} (h : memWriteByte t a v s = some s') :
    s' = s ∨ (∃ ref i, i < s.regionSize ref ∧ s' = s.writeRegion ref i v) ∨ ∃ c r, s' = s.emit (.write c r v) := by
  unfold memWriteByte at h
  split at h
  · cases h
  · split at h
    · split at h
      · cases h; exact .inr (.inl ⟨_, _, ‹_›, rfl⟩)
      · cases h
    · simp only [handlerWrite] at h
      split at h
      · cases h; exact .inr (.inr ⟨_, _, rfl⟩)
      · cases h; exact .inl rfl
    · cases h; exact .inl rfl

/-- A byte write through a table keeps the regions' form. -/
theorem memWriteByte_memoryWf {t : List Entry} {a : Nat} {v : Byte} {s s' : State} (h : memWriteByte t a v s = some s')
    (hs : s.MemoryWf) : s'.MemoryWf := by
  rcases memWriteByte_some h with rfl | ⟨ref, i, hi, rfl⟩ | ⟨c, r, rfl⟩
  · exact hs
  · exact writeRegion_memoryWf s ref i v hi hs
  · exact hs

/-- Where a write through a table stores depends on the regions' access modes alone. -/
theorem storedAt_congr {s s' : State}
    (h : s'.regions.map (fun r => (r.size, r.writable)) = s.regions.map fun r => (r.size, r.writable))
    (t : List Entry) (a : Nat) : s'.storedAt t a = s.storedAt t a := by
  simp only [State.storedAt, regionWritable_congr h]

theorem lookup_cons (e : Entry) (rest : List Entry) (a : Nat) :
    lookup (e :: rest) a = if e.start ≤ a ∧ a ≤ e.stop then some e else lookup rest a := by
  by_cases h1 : e.start ≤ a <;> by_cases h2 : a ≤ e.stop <;> simp [lookup, Entry.covers, h1, h2]

/-- A table that covers a range has an entry for each address of it (20_memory R36(c)). -/
theorem lookup_of_tiles {t : List Entry} {lo top a : Nat} (h : Tiles t lo top) (h1 : lo ≤ a) (h2 : a ≤ top) :
    ∃ e ∈ t, lookup t a = some e ∧ e.start ≤ a ∧ a ≤ e.stop := by
  induction t generalizing lo with
  | nil => simp only [Tiles] at h; omega
  | cons e rest ih =>
    obtain ⟨hs, -, -, hr⟩ := h
    rw [lookup_cons]
    by_cases hc : a ≤ e.stop
    · exact ⟨e, by simp, if_pos ⟨by omega, hc⟩, by omega, hc⟩
    · obtain ⟨x, hx, hl, h3⟩ := ih hr (by omega)
      exact ⟨x, by simp [hx], by rw [if_neg (by omega), hl], h3⟩

section entry
variable {t : List Entry} {a : Nat} {s : State} {e : Entry} (hl : lookup t a = some e)
include hl

theorem memReadByte_direct {ref : RegionRef} {offset amask : Nat} (ht : e.target = .direct ref offset amask)
    (hi : directIndex e.base offset amask a < s.regionSize ref) :
    memReadByte t a s = some (s.regionByte ref (directIndex e.base offset amask a), s) := by
  simp [memReadByte, hl, ht, hi]

theorem memReadByte_unmapped {idle : Idle} (ht : e.target = .unmapped idle) :
    memReadByte t a s = some (idle.byte, s) := by
  simp [memReadByte, hl, ht]

theorem memReadByte_handler {h : HandlerRef} {lanes : Lanes} {idle : Byte} (ht : e.target = .handler h lanes idle) :
    memReadByte t a s = some (handlerRead h lanes idle e.base a s) := by
  simp [memReadByte, hl, ht]

theorem memWriteByte_direct {ref : RegionRef} {offset amask : Nat} (v : Byte) (ht : e.target = .direct ref offset amask)
    (hi : directIndex e.base offset amask a < s.regionSize ref) :
    memWriteByte t a v s = some (s.writeRegion ref (directIndex e.base offset amask a) v) := by
  simp [memWriteByte, hl, ht, hi]

theorem memWriteByte_unmapped {idle : Idle} (v : Byte) (ht : e.target = .unmapped idle) :
    memWriteByte t a v s = some s := by
  simp [memWriteByte, hl, ht]

theorem memWriteByte_handler {h : HandlerRef} {lanes : Lanes} {idle : Byte} (v : Byte)
    (ht : e.target = .handler h lanes idle) : memWriteByte t a v s = some (handlerWrite h lanes e.base a v s) := by
  simp [memWriteByte, hl, ht]

theorem storedAt_direct {ref : RegionRef} {offset amask : Nat} (ht : e.target = .direct ref offset amask) :
    s.storedAt t a = if s.regionWritable ref then some (ref, directIndex e.base offset amask a) else none := by
  simp [State.storedAt, hl, ht]

theorem storedAt_unmapped {idle : Idle} (ht : e.target = .unmapped idle) : s.storedAt t a = none := by
  simp [State.storedAt, hl, ht]

theorem storedAt_handler {h : HandlerRef} {lanes : Lanes} {idle : Byte} (ht : e.target = .handler h lanes idle) :
    s.storedAt t a = none := by
  simp [State.storedAt, hl, ht]

end entry

/-- A byte write through a table changes the one byte `storedAt` gives, and no region's size or access mode. -/
theorem memWriteByte_regionByte {t : List Entry} {a : Nat} {v : Byte} {s s' : State}
    (h : memWriteByte t a v s = some s') :
    s'.regions.map (fun r => (r.size, r.writable)) = s.regions.map (fun r => (r.size, r.writable)) ∧
    ∀ ref i, s'.regionByte ref i = if s.storedAt t a = some (ref, i) then v else s.regionByte ref i := by
  cases hl : lookup t a with
  | none => simp [memWriteByte, hl] at h
  | some e =>
    cases ht : e.target with
    | direct ref offset amask =>
      simp only [memWriteByte, hl, ht, Option.ite_none_right_eq_some, Option.some.injEq] at h
      obtain ⟨-, rfl⟩ := h
      refine ⟨regions_writeRegion _ _ _ _, fun ref' i => ?_⟩
      rw [regionByte_writeRegion, storedAt_direct hl ht]
      cases s.regionWritable ref
      · simp
      · exact if_congr ⟨fun ⟨h1, h2, _⟩ => by rw [h1, h2]; rfl, fun h => by cases h; exact ⟨rfl, rfl, rfl⟩⟩ rfl rfl
    | handler hd lanes idle =>
      rw [memWriteByte_handler hl v ht] at h
      rw [storedAt_handler hl ht]
      simp only [handlerWrite] at h
      split at h <;> cases h
      · exact ⟨rfl, fun ref _ => by cases ref <;> rfl⟩
      · exact ⟨rfl, fun _ _ => rfl⟩
    | unmapped idle =>
      rw [memWriteByte_unmapped hl v ht] at h
      cases h
      rw [storedAt_unmapped hl ht]
      exact ⟨rfl, fun _ _ => rfl⟩

end Sys2Proof.Machine
end

