-- ==== Sys2Proof/Laws/Step.lean ====
section
/-! SUPPORT. What one step can do: the inversion of step, and of exec where it answers a next state. -/

namespace Sys2Proof.Machine

/-- A step that answers a next state took the first item, which nothing blocked and which decoded (30_encoding R60). -/
theorem step_next {s t : State} (h : step s = .next t) :
    ∃ x rest i, s.inputs = x :: rest ∧ blocked s x = none ∧ decode s.cfg.machine x = .ok i ∧
      exec i (s.accept rest) = .next t := by
  unfold step at h
  split at h
  · cases h
  · rename_i x rest hin
    split at h
    · rename_i stop hb
      unfold blocked at hb
      split at hb
      · split at hb <;> cases hb; cases h
      · split at hb <;> cases hb; cases h
    · split at h
      · cases h
      · exact ⟨x, rest, _, hin, ‹_›, ‹_›, h⟩

/-- What an operation that is no memory write, rebind or host event leaves alone. -/
structure SameMap (s t : State) : Prop where
  cfg : t.cfg = s.cfg
  mode : t.mode = s.mode
  selector : t.selector = s.selector
  win : t.win = s.win
  rom : t.rom = s.rom
  ram : t.ram = s.ram
  ramEra : t.ramEra = s.ramEra
  regions : t.regions = s.regions
  fault : t.fault = s.fault
  inputs : t.inputs = s.inputs

/-- What a mode or selector change leaves alone, and the rebind it ends with (41 R76). -/
structure Remap (s t : State) : Prop where
  win : t.win = bind t.cfg t.mode t.selector
  cfg : t.cfg = s.cfg
  rom : t.rom = s.rom
  ram : t.ram = s.ram
  ramEra : t.ramEra = s.ramEra
  regions : t.regions = s.regions
  fault : t.fault = s.fault
  inputs : t.inputs = s.inputs

theorem SameMap.refl (s : State) : SameMap s s := ⟨rfl, rfl, rfl, rfl, rfl, rfl, rfl, rfl, rfl, rfl⟩

theorem sameMap_chipRead (s : State) (c : Chip) (r : Nat) : SameMap s (s.chipRead c r) := by
  constructor <;> simp

theorem sameMap_answer {s t : State} (h : SameMap s t) (d : BusData) : SameMap s (t.answer d) :=
  ⟨h.1, h.2, h.3, h.4, h.5, h.6, h.7, h.8, h.9, h.10⟩

theorem sameMap_answerByte {v : Byte} {s t : State} (h : answerByte v s = .next t) : SameMap s t := by
  cases h; exact ⟨rfl, rfl, rfl, rfl, rfl, rfl, rfl, rfl, rfl, rfl⟩

theorem sameMap_passRead {c : Chip} {r : Nat} {f : Byte → Byte} {s t : State} (h : passRead c r f s = .next t) :
    SameMap s t := by
  cases h; exact sameMap_answer (sameMap_chipRead s c r) _

theorem sameMap_passWrite {c : Chip} {r : Nat} {v : Byte} {s t : State} (h : passWrite c r v s = .next t) :
    SameMap s t := by
  cases h; exact ⟨rfl, rfl, rfl, rfl, rfl, rfl, rfl, rfl, rfl, rfl⟩

theorem SameMap.trans {s t u : State} (h : SameMap s t) (k : SameMap t u) : SameMap s u :=
  ⟨k.1.trans h.1, k.2.trans h.2, k.3.trans h.3, k.4.trans h.4, k.5.trans h.5, k.6.trans h.6, k.7.trans h.7,
    k.8.trans h.8, k.9.trans h.9, k.10.trans h.10⟩

theorem sameMap_driveWait (s : State) : SameMap s s.driveWait := by
  constructor <;> simp

/-- A byte read through a table, and so a word read, moves no byte and no binding. -/
theorem sameMap_memReadByte {tb : List Entry} {a : Nat} {s t : State} {b : Byte}
    (h : memReadByte tb a s = some (b, t)) : SameMap s t := by
  rcases memReadByte_some h with rfl | ⟨c, r, rfl, -⟩
  · exact .refl _
  · exact sameMap_chipRead s c r

/-- A generic read moves no byte and no binding (20_memory R40). -/
theorem sameMap_memRead {tb : List Entry} {a : Nat} {n : Width} {s t : State} {d : BusData}
    (h : memRead tb a n s = some (d, t)) : SameMap s t := by
  cases n with
  | byte =>
    simp only [memRead, Option.map_eq_some_iff] at h
    obtain ⟨⟨b, s1⟩, hb, he⟩ := h
    cases he
    exact sameMap_memReadByte hb
  | word =>
    simp only [memRead, Option.map_eq_some_iff] at h
    obtain ⟨⟨w, s2⟩, hw, he⟩ := h
    cases he
    unfold memReadWord at hw
    split at hw
    · cases hw
    · rename_i b0 s0 h0
      split at hw
      · cases hw
      · rename_i b1 s1 h1
        cases hw
        exact (sameMap_memReadByte h0).trans (sameMap_memReadByte h1)

/-- The state after an operation: nothing mapped or stored changed; a rebind of a new mode or selector; a byte of RAM
stored; the stores of a generic write; a load of persisted state; a power-on. -/
def StepShape (i : Instr) (s t : State) : Prop :=
  SameMap s t ∨ Remap s t ∨
    (∃ a v k, i = .wrWin a v ∧ writeTarget s a = some k ∧ t = s.writeRam k v) ∨
    (∃ a d, i = .wrGen a d ∧ memWrite s.tables.write a.toNat d s = some t) ∨
    (∃ p, i = .evRestore p ∧ t = s.load p) ∨
    (i = .evPoweron ∧ t = s.powerOn)

theorem sameMap_memoryReads {i : Instr} {s t : State} (h : exec i s = .next t)
    (hi : i.format = .MR) : SameMap s t := by
  cases i with
  | rdHi a => exact sameMap_answerByte (onXor100_next (run := fun s => answerByte (readHigh s a) s) h).2
  | rdLo a => exact sameMap_answerByte (onXor100_next (run := fun s => answerByte (readLow s a) s) h).2
  | rdGen a n =>
    simp only [exec, execRdGen] at h
    obtain ⟨-, h⟩ := onTr175_next h
    split at h
    · split at h
      · cases h
        exact sameMap_answer (sameMap_memRead ‹_›) _
      · cases h
    · cases h
  | _ => cases hi

theorem sameMap_portReads {i : Instr} {s t : State} (h : exec i s = .next t)
    (hi : i.format = .IR) (hne : i ≠ .inEpromF800) : SameMap s t := by
  cases i with
  | inEpromF800 => exact absurd rfl hne
  | inFdcWait =>
    simp only [exec, execInFdcWait] at h
    obtain ⟨-, h⟩ := onXor100_next h
    split at h
    · rcases waitRequest_cases .busyRead s fun s => answerByte (fcStatusByte s.cfg s.irq) s with ⟨-, e⟩ | ⟨-, e⟩
      · rw [e] at h; cases h
      · rw [e] at h
        exact (sameMap_driveWait s).trans (sameMap_answerByte h)
    · exact sameMap_answerByte h
  | inSeraData => exact sameMap_passRead (onXor100_next (run := passRead .serA 0 id) h).2
  | inSeraStat => exact sameMap_passRead (onXor100_next (run := passRead .serA 1 id) h).2
  | inSerbData => exact sameMap_passRead (onXor100_next (run := passRead .serB 0 id) h).2
  | inSerbStat => exact sameMap_passRead (onXor100_next (run := passRead .serB 1 id) h).2
  | inDip => exact sameMap_answerByte (onXor100_next (run := fun s => answerByte s.cfg.dipBaud s) h).2
  | inPpiA => exact sameMap_passRead (onXor100_next (run := passRead .ppi 0 id) h).2
  | inPpiB => exact sameMap_passRead (onXor100_next (run := passRead .ppi 1 id) h).2
  | inPpiC => exact sameMap_answerByte (onXor100_next (run := fun s => answerByte (captureByte s.centBusy s.centSelect) s) h).2
  | inPpiCtrl => exact sameMap_passRead (onXor100_next (run := passRead .ppi 3 id) h).2
  | inCtc c => exact sameMap_passRead (onXor100_next (run := passRead .ctc c.toNat id) h).2
  | inFdc r => exact sameMap_passRead (onXor100_next (run := passRead .fdc r.toNat invert) h).2
  | inUnmapped p => exact sameMap_answerByte (onXor100_next (run := fun s => answerByte s.cfg.idleIo.byte s) h).2
  | _ => cases hi

theorem stepShape_portWrites {i : Instr} {s t : State} (h : exec i s = .next t)
    (hi : i.format = .IW) : SameMap s t ∨ Remap s t := by
  cases i with
  | outBanksel v =>
    simp only [exec, execOutBanksel] at h
    obtain ⟨-, h⟩ := onXor100_next h
    cases h
    exact .inr ⟨rfl, rfl, rfl, rfl, rfl, rfl, rfl, rfl⟩
  | outEpromToggle v =>
    simp only [exec, execOutEpromToggle] at h
    obtain ⟨-, h⟩ := onXor100_next h
    cases h
    exact .inr ⟨rfl, rfl, rfl, rfl, rfl, rfl, rfl, rfl⟩
  | outSeraData v => exact .inl (sameMap_passWrite (onXor100_next (run := passWrite .serA 0 v) h).2)
  | outSeraCtrl v => exact .inl (sameMap_passWrite (onXor100_next (run := passWrite .serA 1 v) h).2)
  | outSerbData v => exact .inl (sameMap_passWrite (onXor100_next (run := passWrite .serB 0 v) h).2)
  | outSerbCtrl v => exact .inl (sameMap_passWrite (onXor100_next (run := passWrite .serB 1 v) h).2)
  | outBaud v =>
    simp only [exec, execOutBaud] at h
    obtain ⟨-, h⟩ := onXor100_next h
    cases h
    exact .inl ⟨rfl, rfl, rfl, rfl, rfl, rfl, rfl, rfl, rfl, rfl⟩
  | outPpiA v =>
    simp only [exec, execOutPpiA] at h
    obtain ⟨-, h⟩ := onXor100_next h
    cases h
    exact .inl ⟨rfl, rfl, rfl, rfl, rfl, rfl, rfl, rfl, rfl, rfl⟩
  | outPpiB v =>
    simp only [exec, execOutPpiB] at h
    obtain ⟨-, h⟩ := onXor100_next h
    cases h
    exact .inl ⟨rfl, rfl, rfl, rfl, rfl, rfl, rfl, rfl, rfl, rfl⟩
  | outPpiC v => exact .inl (sameMap_passWrite (onXor100_next (run := passWrite .ppi 2 v) h).2)
  | outPpiCtrl v => exact .inl (sameMap_passWrite (onXor100_next (run := passWrite .ppi 3 v) h).2)
  | outCtc c v => exact .inl (sameMap_passWrite (onXor100_next (run := passWrite .ctc c.toNat v) h).2)
  | outFdc r v => exact .inl (sameMap_passWrite (onXor100_next (run := passWrite .fdc r.toNat (invert v)) h).2)
  | outFdcDsel v =>
    simp only [exec, execOutFdcDsel] at h
    obtain ⟨-, h⟩ := onXor100_next h
    cases h
    exact .inl ⟨rfl, rfl, rfl, rfl, rfl, rfl, rfl, rfl, rfl, rfl⟩
  | outFdcDens v =>
    simp only [exec, execOutFdcDens] at h
    obtain ⟨-, h⟩ := onXor100_next h
    cases h
    exact .inl ⟨rfl, rfl, rfl, rfl, rfl, rfl, rfl, rfl, rfl, rfl⟩
  | outUnmapped p v =>
    simp only [exec, execOutUnmapped] at h
    obtain ⟨-, h⟩ := onXor100_next h
    cases h
    exact .inl ⟨rfl, rfl, rfl, rfl, rfl, rfl, rfl, rfl, rfl, rfl⟩
  | _ => cases hi

/-- A floppy line event moves no byte and no binding (44 R119, R120). -/
theorem sameMap_fdcEvents {b : Bool} {s t : State} (h : exec (.evFdcIrq b) s = .next t ∨ exec (.evFdcDrq b) s = .next t) :
    SameMap s t := by
  rcases h with h | h
  · simp only [exec, execEvFdcIrq] at h
    obtain ⟨-, h⟩ := onXor100_next h
    split at h
    · rcases waitRequest_cases .irqRise { s.stallMayEnd with irq := b } .next with ⟨-, e⟩ | ⟨-, e⟩
      · rw [e] at h; cases h
      · rw [e] at h; cases h; exact ⟨rfl, rfl, rfl, rfl, rfl, rfl, rfl, rfl, rfl, rfl⟩
    · cases h; exact ⟨rfl, rfl, rfl, rfl, rfl, rfl, rfl, rfl, rfl, rfl⟩
  · simp only [exec, execEvFdcDrq] at h
    obtain ⟨-, h⟩ := onXor100_next h
    split at h
    · rcases waitRequest_cases .drqRise { s.stallMayEnd with drq := b } .next with ⟨-, e⟩ | ⟨-, e⟩
      · rw [e] at h; cases h
      · rw [e] at h; cases h; exact ⟨rfl, rfl, rfl, rfl, rfl, rfl, rfl, rfl, rfl, rfl⟩
    · cases h; exact ⟨rfl, rfl, rfl, rfl, rfl, rfl, rfl, rfl, rfl, rfl⟩

theorem exec_next_cases {i : Instr} {s t : State} (h : exec i s = .next t) : StepShape i s t := by
  cases i with
  | rdHi _ | rdLo _ | rdGen _ _ => exact .inl (sameMap_memoryReads h rfl)
  | inEpromF800 =>
    simp only [exec, execInEpromF800] at h
    obtain ⟨-, h⟩ := onXor100_next h
    cases h
    exact .inr (.inl ⟨rfl, rfl, rfl, rfl, rfl, rfl, rfl, rfl⟩)
  | inSeraData | inSeraStat | inSerbData | inSerbStat | inDip | inPpiA | inPpiB | inPpiC | inPpiCtrl | inCtc _
  | inFdc _ | inFdcWait | inUnmapped _ => exact .inl (sameMap_portReads h rfl nofun)
  | outBanksel _ | outEpromToggle _ | outSeraData _ | outSeraCtrl _ | outSerbData _ | outSerbCtrl _ | outBaud _
  | outPpiA _ | outPpiB _ | outPpiC _ | outPpiCtrl _ | outCtc _ _ | outFdc _ _ | outFdcDsel _ | outFdcDens _
  | outUnmapped _ _ => exact (stepShape_portWrites h rfl).imp id .inl
  | wrWin a v =>
    simp only [exec, execWrWin] at h
    obtain ⟨-, h⟩ := onXor100_next h
    split at h
    · cases h; exact .inr (.inr (.inl ⟨a, v, _, rfl, ‹_›, rfl⟩))
    · cases h; exact .inl (.refl s)
  | wrGen a d =>
    simp only [exec, execWrGen] at h
    obtain ⟨-, h⟩ := onTr175_next h
    split at h
    · split at h
      · cases h; exact .inr (.inr (.inr (.inl ⟨a, d, rfl, ‹_›⟩)))
      · cases h
    · cases h
  | evFdcIrq b => exact .inl (sameMap_fdcEvents (.inl h))
  | evFdcDrq b => exact .inl (sameMap_fdcEvents (.inr h))
  | evCentBusy b =>
    simp only [exec, execEvCentBusy] at h
    obtain ⟨-, h⟩ := onXor100_next h
    cases h; exact .inl ⟨rfl, rfl, rfl, rfl, rfl, rfl, rfl, rfl, rfl, rfl⟩
  | evCentSelect b =>
    simp only [exec, execEvCentSelect] at h
    obtain ⟨-, h⟩ := onXor100_next h
    cases h; exact .inl ⟨rfl, rfl, rfl, rfl, rfl, rfl, rfl, rfl, rfl, rfl⟩
  | evCtcZc c b => cases (onXor100_next (run := .next) h).2; exact .inl (.refl s)
  | evSerLine ch line b => cases (onXor100_next (run := .next) h).2; exact .inl (.refl s)
  | evPoweron => cases h; exact .inr (.inr (.inr (.inr (.inr ⟨rfl, rfl⟩))))
  | evReset => cases h; exact .inr (.inl ⟨rfl, rfl, rfl, rfl, rfl, rfl, rfl, rfl⟩)
  | evRestore p => cases h; exact .inr (.inr (.inr (.inr (.inl ⟨p, rfl, rfl⟩))))

/-- The step after an item has been placed runs the operation it decodes to. -/
theorem step_withItem (s : State) (m : MachineKind) (x : BusItem) (i : Instr) (h : decode m x = .ok i) :
    step (s.withItem m x) = exec i ((s.withItem m x).accept s.inputs) := by
  have hd : decode (s.withItem m x).cfg.machine x = .ok i := h
  have hb : blocked (s.withItem m x) x = none := rfl
  have hi : (s.withItem m x).inputs = x :: s.inputs := rfl
  simp only [step, hi, hb, hd]

/-- The step after a table word has been placed runs the operation the decoder reads from it (log 12, log 13). -/
theorem step_withFetchWord (s : State) (nbits w : Nat) (i : Instr) (h : decodeTableWord nbits w = some i) :
    step (s.withFetchWord nbits w) = exec i ((s.withFetchWord nbits w).accept s.inputs) := by
  unfold decodeTableWord at h
  split at h
  · cases h; exact step_withItem s _ _ _ ‹_›
  · cases h

end Sys2Proof.Machine
end

