-- ==== Sys2Proof/Laws/Exec.lean ====
section
/-! SUPPORT. Each operation of xor100 on a state of xor100, in terms of the shared operations: what later proofs rewrite
with, instead of unfolding exec. -/

namespace Sys2Proof.Machine

variable (s : State)

theorem exec_rdHi (a : Addr16) (h : s.cfg.machine = .xor100) :
    exec (.rdHi a) s = answerByte (readHigh s a) s := by
  simp only [exec, execRdHi, onXor100_of _ _ h]

theorem exec_rdLo (a : Addr16) (h : s.cfg.machine = .xor100) :
    exec (.rdLo a) s = answerByte (readLow s a) s := by
  simp only [exec, execRdLo, onXor100_of _ _ h]

theorem exec_wrWin (a : Addr16) (v : Byte) (h : s.cfg.machine = .xor100) :
    exec (.wrWin a v) s = match writeTarget s a with | some i => .next (s.writeRam i v) | none => .next s := by
  unfold exec execWrWin
  exact onXor100_of s _ h

theorem exec_outBanksel (v : Byte) (h : s.cfg.machine = .xor100) :
    exec (.outBanksel v) s = .next { s with selector := selField v }.rebind := by
  simp only [exec, execOutBanksel, onXor100_of _ _ h]

theorem exec_outEpromToggle (v : Byte) (h : s.cfg.machine = .xor100) :
    exec (.outEpromToggle v) s = .next { s with mode := toggleMode s.mode }.rebind := by
  simp only [exec, execOutEpromToggle, onXor100_of _ _ h]

theorem exec_inEpromF800 (h : s.cfg.machine = .xor100) :
    exec .inEpromF800 s = answerByte 0xFF#8 { s with mode := .f800 }.rebind := by
  simp only [exec, execInEpromF800, onXor100_of _ _ h]

theorem exec_inSeraData (h : s.cfg.machine = .xor100) :
    exec .inSeraData s = passRead .serA 0 id s := by
  simp only [exec, execInSeraData, onXor100_of _ _ h]

theorem exec_outSeraData (v : Byte) (h : s.cfg.machine = .xor100) :
    exec (.outSeraData v) s = passWrite .serA 0 v s := by
  simp only [exec, execOutSeraData, onXor100_of _ _ h]

theorem exec_inSeraStat (h : s.cfg.machine = .xor100) :
    exec .inSeraStat s = passRead .serA 1 id s := by
  simp only [exec, execInSeraStat, onXor100_of _ _ h]

theorem exec_outSeraCtrl (v : Byte) (h : s.cfg.machine = .xor100) :
    exec (.outSeraCtrl v) s = passWrite .serA 1 v s := by
  simp only [exec, execOutSeraCtrl, onXor100_of _ _ h]

theorem exec_inSerbData (h : s.cfg.machine = .xor100) :
    exec .inSerbData s = passRead .serB 0 id s := by
  simp only [exec, execInSerbData, onXor100_of _ _ h]

theorem exec_outSerbData (v : Byte) (h : s.cfg.machine = .xor100) :
    exec (.outSerbData v) s = passWrite .serB 0 v s := by
  simp only [exec, execOutSerbData, onXor100_of _ _ h]

theorem exec_inSerbStat (h : s.cfg.machine = .xor100) :
    exec .inSerbStat s = passRead .serB 1 id s := by
  simp only [exec, execInSerbStat, onXor100_of _ _ h]

theorem exec_outSerbCtrl (v : Byte) (h : s.cfg.machine = .xor100) :
    exec (.outSerbCtrl v) s = passWrite .serB 1 v s := by
  simp only [exec, execOutSerbCtrl, onXor100_of _ _ h]

theorem exec_inDip (h : s.cfg.machine = .xor100) :
    exec .inDip s = answerByte s.cfg.dipBaud s := by
  simp only [exec, execInDip, onXor100_of _ _ h]

theorem exec_outBaud (v : Byte) (h : s.cfg.machine = .xor100) :
    exec (.outBaud v) s = .next (({ s with baudA := codeAField v, baudB := codeBField v }.emit (.brgSetA (codeAField v))).emit
      (.brgSetB (codeBField v))) := by
  simp only [exec, execOutBaud, onXor100_of _ _ h]

theorem exec_inPpiA (h : s.cfg.machine = .xor100) :
    exec .inPpiA s = passRead .ppi 0 id s := by
  simp only [exec, execInPpiA, onXor100_of _ _ h]

theorem exec_outPpiA (v : Byte) (h : s.cfg.machine = .xor100) :
    exec (.outPpiA v) s = passWrite .ppi 0 v { s with centData := v } := by
  simp only [exec, execOutPpiA, onXor100_of _ _ h]

theorem exec_inPpiB (h : s.cfg.machine = .xor100) :
    exec .inPpiB s = passRead .ppi 1 id s := by
  simp only [exec, execInPpiB, onXor100_of _ _ h]

theorem exec_outPpiB (v : Byte) (h : s.cfg.machine = .xor100) :
    exec (.outPpiB v) s = .next (({ s with centStrobe := strobeField v }.emit (.write .ppi 1 v)).emit (.printerStrobe (strobeField v))) := by
  simp only [exec, execOutPpiB, onXor100_of _ _ h]

theorem exec_inPpiC (h : s.cfg.machine = .xor100) :
    exec .inPpiC s = answerByte (captureByte s.centBusy s.centSelect) s := by
  simp only [exec, execInPpiC, onXor100_of _ _ h]

theorem exec_outPpiC (v : Byte) (h : s.cfg.machine = .xor100) :
    exec (.outPpiC v) s = passWrite .ppi 2 v s := by
  simp only [exec, execOutPpiC, onXor100_of _ _ h]

theorem exec_inPpiCtrl (h : s.cfg.machine = .xor100) :
    exec .inPpiCtrl s = passRead .ppi 3 id s := by
  simp only [exec, execInPpiCtrl, onXor100_of _ _ h]

theorem exec_outPpiCtrl (v : Byte) (h : s.cfg.machine = .xor100) :
    exec (.outPpiCtrl v) s = passWrite .ppi 3 v s := by
  simp only [exec, execOutPpiCtrl, onXor100_of _ _ h]

theorem exec_inCtc (c : BitVec 2) (h : s.cfg.machine = .xor100) :
    exec (.inCtc c) s = passRead .ctc c.toNat id s := by
  simp only [exec, execInCtc, onXor100_of _ _ h]

theorem exec_outCtc (c : BitVec 2) (v : Byte) (h : s.cfg.machine = .xor100) :
    exec (.outCtc c v) s = passWrite .ctc c.toNat v s := by
  simp only [exec, execOutCtc, onXor100_of _ _ h]

theorem exec_inFdc (r : BitVec 2) (h : s.cfg.machine = .xor100) :
    exec (.inFdc r) s = passRead .fdc r.toNat invert s := by
  simp only [exec, execInFdc, onXor100_of _ _ h]

theorem exec_outFdc (r : BitVec 2) (v : Byte) (h : s.cfg.machine = .xor100) :
    exec (.outFdc r v) s = passWrite .fdc r.toNat (invert v) s := by
  simp only [exec, execOutFdc, onXor100_of _ _ h]

theorem exec_inFdcWait (h : s.cfg.machine = .xor100) :
    exec .inFdcWait s = if fcBusy s.cfg s.irq s.drq then waitRequest .busyRead s fun s => answerByte (fcStatusByte s.cfg s.irq) s
      else answerByte (fcStatusByte s.cfg s.irq) s := by
  simp only [exec, execInFdcWait, onXor100_of _ _ h]

theorem exec_outFdcDsel (v : Byte) (h : s.cfg.machine = .xor100) :
    exec (.outFdcDsel v) s = .next ({ s with
      selectedDrive := selectDrive (driveField v)
      motorOn := startSelected s.motorOn (selectDrive (driveField v)) }.emit (.fdcSetDrive (selectDrive (driveField v)))) := by
  simp only [exec, execOutFdcDsel, onXor100_of _ _ h]

theorem exec_outFdcDens (v : Byte) (h : s.cfg.machine = .xor100) :
    exec (.outFdcDens v) s = .next ({ s with density := nextDensity s.cfg (densityField v) s.density }.emit
      (.fdcDensity (nextDensity s.cfg (densityField v) s.density))) := by
  simp only [exec, execOutFdcDens, onXor100_of _ _ h]

theorem exec_inUnmapped (p : Byte) (h : s.cfg.machine = .xor100) :
    exec (.inUnmapped p) s = answerByte s.cfg.idleIo.byte s := by
  simp only [exec, execInUnmapped, onXor100_of _ _ h]

theorem exec_outUnmapped (p v : Byte) (h : s.cfg.machine = .xor100) :
    exec (.outUnmapped p v) s = .next s := by
  simp only [exec, execOutUnmapped, onXor100_of _ _ h]

theorem exec_evFdcIrq (b : Bool) (h : s.cfg.machine = .xor100) :
    exec (.evFdcIrq b) s = if risingEdge s.irq b then waitRequest .irqRise { s.stallMayEnd with irq := b } .next
      else .next { s.stallMayEnd with irq := b } := by
  simp only [exec, execEvFdcIrq, onXor100_of _ _ h]

theorem exec_evFdcDrq (b : Bool) (h : s.cfg.machine = .xor100) :
    exec (.evFdcDrq b) s = if risingEdge s.drq b then waitRequest .drqRise { s.stallMayEnd with drq := b } .next
      else .next { s.stallMayEnd with drq := b } := by
  simp only [exec, execEvFdcDrq, onXor100_of _ _ h]

theorem exec_evCentBusy (b : Bool) (h : s.cfg.machine = .xor100) :
    exec (.evCentBusy b) s = .next { s with centBusy := b } := by
  simp only [exec, execEvCentBusy, onXor100_of _ _ h]

theorem exec_evCentSelect (b : Bool) (h : s.cfg.machine = .xor100) :
    exec (.evCentSelect b) s = .next { s with centSelect := b } := by
  simp only [exec, execEvCentSelect, onXor100_of _ _ h]

theorem exec_evCtcZc (c : BitVec 2) (b : Bool) (h : s.cfg.machine = .xor100) :
    exec (.evCtcZc c b) s = .next s := by
  simp only [exec, execEvCtcZc, onXor100_of _ _ h]

theorem exec_evSerLine (ch : Channel) (l : SerLine) (b : Bool) (h : s.cfg.machine = .xor100) :
    exec (.evSerLine ch l b) s = .next s := by
  simp only [exec, execEvSerLine, onXor100_of _ _ h]

theorem exec_rdGen (a : Addr24) (n : Width) (h : s.cfg.machine = .tr175) :
    exec (.rdGen a n) s = if aligned a n then
      match memRead s.cfg.tr175Table.read a.toNat n s with
      | some (d, s') => .next (s'.answer d)
      | none => .refused (.illegalTable a.toNat)
    else .refused (.misalignedWord a.toNat) := by
  have key : s.cfg.tr175Table = s.tables := by simp only [State.tables, h]
  rw [key]
  unfold exec execRdGen
  exact onTr175_of s _ h

theorem exec_wrGen (a : Addr24) (d : BusData) (h : s.cfg.machine = .tr175) :
    exec (.wrGen a d) s = if aligned a d.width then
      match memWrite s.cfg.tr175Table.write a.toNat d s with
      | some s' => .next s'
      | none => .refused (.illegalTable a.toNat)
    else .refused (.misalignedWord a.toNat) := by
  have key : s.cfg.tr175Table = s.tables := by simp only [State.tables, h]
  rw [key]
  unfold exec execWrGen
  exact onTr175_of s _ h

end Sys2Proof.Machine
end

