-- ==== Sys2Proof/Laws/PerInstr.lean ====
section
/-! SUPPORT. Statements about every operation as syntax, one lemma per constructor. -/

/-- The encoder gives an operation the format its row of spec/opcode_table.json has (30_encoding R60). -/
def Sys2Proof.Laws.EncodedFormat.Statement (i : Sys2Proof.Instr) : Prop :=
  (Sys2Proof.encode i).format = i.format

namespace Sys2Proof.Laws.EncodedFormat

theorem rdHi (a : Addr16) : Statement (.rdHi a) := rfl
theorem rdLo (a : Addr16) : Statement (.rdLo a) := rfl
theorem wrWin (a : Addr16) (v : Byte) : Statement (.wrWin a v) := rfl
theorem rdGen (a : Addr24) (n : Width) : Statement (.rdGen a n) := by cases n <;> rfl
theorem wrGen (a : Addr24) (d : BusData) : Statement (.wrGen a d) := by cases d <;> rfl
theorem outBanksel (v : Byte) : Statement (.outBanksel v) := rfl
theorem outEpromToggle (v : Byte) : Statement (.outEpromToggle v) := rfl
theorem inEpromF800 : Statement .inEpromF800 := rfl
theorem inSeraData : Statement .inSeraData := rfl
theorem outSeraData (v : Byte) : Statement (.outSeraData v) := rfl
theorem inSeraStat : Statement .inSeraStat := rfl
theorem outSeraCtrl (v : Byte) : Statement (.outSeraCtrl v) := rfl
theorem inSerbData : Statement .inSerbData := rfl
theorem outSerbData (v : Byte) : Statement (.outSerbData v) := rfl
theorem inSerbStat : Statement .inSerbStat := rfl
theorem outSerbCtrl (v : Byte) : Statement (.outSerbCtrl v) := rfl
theorem inDip : Statement .inDip := rfl
theorem outBaud (v : Byte) : Statement (.outBaud v) := rfl
theorem inPpiA : Statement .inPpiA := rfl
theorem outPpiA (v : Byte) : Statement (.outPpiA v) := rfl
theorem inPpiB : Statement .inPpiB := rfl
theorem outPpiB (v : Byte) : Statement (.outPpiB v) := rfl
theorem inPpiC : Statement .inPpiC := rfl
theorem outPpiC (v : Byte) : Statement (.outPpiC v) := rfl
theorem inPpiCtrl : Statement .inPpiCtrl := rfl
theorem outPpiCtrl (v : Byte) : Statement (.outPpiCtrl v) := rfl
theorem inCtc (c : BitVec 2) : Statement (.inCtc c) := rfl
theorem outCtc (c : BitVec 2) (v : Byte) : Statement (.outCtc c v) := rfl
theorem inFdc (r : BitVec 2) : Statement (.inFdc r) := rfl
theorem outFdc (r : BitVec 2) (v : Byte) : Statement (.outFdc r v) := rfl
theorem inFdcWait : Statement .inFdcWait := rfl
theorem outFdcDsel (v : Byte) : Statement (.outFdcDsel v) := rfl
theorem outFdcDens (v : Byte) : Statement (.outFdcDens v) := rfl
theorem inUnmapped (p : Byte) : Statement (.inUnmapped p) := rfl
theorem outUnmapped (p : Byte) (v : Byte) : Statement (.outUnmapped p v) := rfl
theorem evPoweron : Statement .evPoweron := rfl
theorem evReset : Statement .evReset := rfl
theorem evRestore (p : Persisted) : Statement (.evRestore p) := rfl
theorem evFdcIrq (b : Bool) : Statement (.evFdcIrq b) := rfl
theorem evFdcDrq (b : Bool) : Statement (.evFdcDrq b) := rfl
theorem evCentBusy (b : Bool) : Statement (.evCentBusy b) := rfl
theorem evCentSelect (b : Bool) : Statement (.evCentSelect b) := rfl
theorem evCtcZc (c : BitVec 2) (b : Bool) : Statement (.evCtcZc c b) := rfl
theorem evSerLine (ch : Channel) (line : SerLine) (b : Bool) : Statement (.evSerLine ch line b) := rfl

end Sys2Proof.Laws.EncodedFormat
end

