-- ==== Sys2Proof/Tests/Slice0.lean ====
section
/-! SUPPORT. Tests: what WellFormed refuses, the words of the spec's encodings and what they decode to, one step of each
operation against the vectors of 95_test_vectors, and for each obligation with hypotheses a state and operands that meet
them. Expected values come from the rules and vectors of the spec. -/

namespace Sys2Proof.Tests

open Sys2Proof Sys2Proof.Machine

/-! ### States (95_test_vectors section 1) -/

/-- The test configuration of 95_test_vectors section 1. -/
def cfg : Config := { Config.default with dipBaud := 0xEE#8 }

/-- Some bytes of `ROM_T`. -/
def romT : Memory := [(0x000, 0x00#8), (0x001, 0x01#8), (0x010, 0x10#8), (0x234, 0x36#8), (0x7FF, 0x06#8)]

/-- The bytes of RAM section 4 starts from. -/
def ramT : Memory := [(0x00010, 0xAB#8), (0x0F7FF, 0x00#8), (0x0F810, 0x55#8), (0x1FFFF, 0x77#8), (0x30000, 0x99#8)]

/-- A state of xor100 in a mode with a selector, under a configuration; its latches hold zero. -/
def mk (c : Config) (m : Mode) (sel : BitVec 3) : State :=
  { State.reset with
    cfg := c, mode := m, selector := sel, win := bind c m sel, rom := romT, ram := ramT
    centData := 0#8, centStrobe := false, baudA := 0#4, baudB := 0#4 }

def st (m : Mode) (sel : BitVec 3) : State := mk cfg m sel

/-- One field of the next state of an operation. -/
def after {α : Type} (i : Instr) (s : State) (f : State → α) : Option α :=
  match exec i s with
  | .next t => some (f t)
  | .fault _ => none
  | .refused _ => none

/-- The next state of an operation, or the state itself. -/
def run (i : Instr) (s : State) : State :=
  match exec i s with
  | .next t => t
  | .fault _ => s
  | .refused _ => s

/-- The data byte an operation returns. -/
def byteOf (i : Instr) (s : State) : Option (Option BusData) := after i s (·.result)

def got (v : Byte) : Option (Option BusData) := some (some (.byte v))

/-- The mode, selector and bindings after an operation. -/
def mapOf (i : Instr) (s : State) : Option (Mode × BitVec 3 × Windows) := after i s fun t => (t.mode, t.selector, t.win)

/-- The cause of the fault an operation ends in. -/
def causeOf (i : Instr) (s : State) : Option WaitCause :=
  match exec i s with
  | .fault (.unsupportedWaitState c _) => some c
  | .fault (.alreadyFaulted _) => none
  | .next _ => none
  | .refused _ => none

/-! ### WellFormed refuses -/

theorem test_wf_rdHi_low_address : WellFormed (.rdHi 0xF7FF#16) = false := by decide
theorem test_wf_rdLo_high_address : WellFormed (.rdLo 0xF800#16) = false := by decide
theorem test_wf_inUnmapped_mapped_ports :
    WellFormed (.inUnmapped 0x0A#8) = false ∧ WellFormed (.inUnmapped 0xFC#8) = false := by decide
theorem test_wf_outUnmapped_mapped_ports :
    WellFormed (.outUnmapped 0x08#8 0#8) = false ∧ WellFormed (.outUnmapped 0xFD#8 0#8) = false := by decide
theorem test_wf_rdGen_odd_word : WellFormed (.rdGen 0x000001#24 .word) = false := by decide
theorem test_wf_wrGen_odd_word : WellFormed (.wrGen 0xFFFFFF#24 (.word 0#16)) = false := by decide

/-! ### Decoding: the patterns of R63, R64 and the events of R68, written out -/

theorem test_decode_memory_windows :
    decode .xor100 (.mr 0b1111100000000000 1) = .ok (.rdHi 0b1111100000000000#16) ∧
    decode .xor100 (.mr 0b1111111111111111 1) = .ok (.rdHi 0b1111111111111111#16) ∧
    decode .xor100 (.mr 0b1111011111111111 1) = .ok (.rdLo 0b1111011111111111#16) ∧
    decode .xor100 (.mw 0b1111100000010000 1 0x55#16) = .ok (.wrWin 0b1111100000010000#16 0x55#8) := by decide

theorem test_decode_generic :
    decode .tr175 (.mr 0b100000000000000000000001 1) = .ok (.rdGen 0b100000000000000000000001#24 .byte) ∧
    decode .tr175 (.mr 0b000000000000000000000100 2) = .ok (.rdGen 0b000000000000000000000100#24 .word) ∧
    decode .tr175 (.mw 0b000000000000000000000001 1 0xAB#16) = .ok (.wrGen 0b1#24 (.byte 0xAB#8)) ∧
    decode .tr175 (.mw 0b100000000000000000000110 2 0x1234#16) =
      .ok (.wrGen 0b100000000000000000000110#24 (.word 0x1234#16)) := by decide

theorem test_decode_bank_switch :
    decode .xor100 (.iw 0b00001000 0xFD#8) = .ok (.outBanksel 0xFD#8) ∧
    decode .xor100 (.iw 0b00001001 0x00#8) = .ok (.outEpromToggle 0x00#8) ∧
    decode .xor100 (.ir 0b00001010) = .ok .inEpromF800 ∧
    decode .xor100 (.iw 0x1208 0x01#8) = .ok (.outBanksel 0x01#8) := by decide

theorem test_decode_serial :
    decode .xor100 (.ir 0b00000000) = .ok .inSeraData ∧
    decode .xor100 (.iw 0b00000000 0x41#8) = .ok (.outSeraData 0x41#8) ∧
    decode .xor100 (.ir 0b00000001) = .ok .inSeraStat ∧
    decode .xor100 (.iw 0b00000001 0x37#8) = .ok (.outSeraCtrl 0x37#8) ∧
    decode .xor100 (.ir 0b00000010) = .ok .inSerbData ∧
    decode .xor100 (.iw 0b00000010 0x0D#8) = .ok (.outSerbData 0x0D#8) ∧
    decode .xor100 (.ir 0b00000011) = .ok .inSerbStat ∧
    decode .xor100 (.iw 0b00000011 0x40#8) = .ok (.outSerbCtrl 0x40#8) := by decide

theorem test_decode_baud_and_dip :
    decode .xor100 (.ir 0b00001011) = .ok .inDip ∧
    decode .xor100 (.iw 0b00001011 0xEC#8) = .ok (.outBaud 0xEC#8) := by decide

theorem test_decode_parallel :
    decode .xor100 (.ir 0b00000100) = .ok .inPpiA ∧
    decode .xor100 (.iw 0b00000100 0x41#8) = .ok (.outPpiA 0x41#8) ∧
    decode .xor100 (.ir 0b00000101) = .ok .inPpiB ∧
    decode .xor100 (.iw 0b00000101 0xFE#8) = .ok (.outPpiB 0xFE#8) ∧
    decode .xor100 (.ir 0b00000110) = .ok .inPpiC ∧
    decode .xor100 (.iw 0b00000110 0x00#8) = .ok (.outPpiC 0x00#8) ∧
    decode .xor100 (.ir 0b00000111) = .ok .inPpiCtrl ∧
    decode .xor100 (.iw 0b00000111 0x89#8) = .ok (.outPpiCtrl 0x89#8) := by decide

theorem test_decode_counter_timer :
    decode .xor100 (.ir 0b00001101) = .ok (.inCtc 0b01#2) ∧
    decode .xor100 (.iw 0b00001111 0x10#8) = .ok (.outCtc 0b11#2 0x10#8) := by decide

theorem test_decode_floppy :
    decode .xor100 (.ir 0b11111011) = .ok (.inFdc 0b11#2) ∧
    decode .xor100 (.iw 0b11111010 0xFF#8) = .ok (.outFdc 0b10#2 0xFF#8) ∧
    decode .xor100 (.ir 0b11111100) = .ok .inFdcWait ∧
    decode .xor100 (.iw 0b11111100 0x05#8) = .ok (.outFdcDsel 0x05#8) ∧
    decode .xor100 (.iw 0b11111101 0x03#8) = .ok (.outFdcDens 0x03#8) := by decide

theorem test_decode_unmapped :
    decode .xor100 (.ir 0b00001000) = .ok (.inUnmapped 0b00001000#8) ∧
    decode .xor100 (.ir 0b11111101) = .ok (.inUnmapped 0b11111101#8) ∧
    decode .xor100 (.ir 0xAB40) = .ok (.inUnmapped 0x40#8) ∧
    decode .xor100 (.iw 0b00001010 0x55#8) = .ok (.outUnmapped 0b00001010#8 0x55#8) ∧
    decode .xor100 (.iw 0b11110111 0x55#8) = .ok (.outUnmapped 0b11110111#8 0x55#8) := by decide

theorem test_decode_events :
    decode .xor100 (.ev .powerOn) = .ok .evPoweron ∧ decode .xor100 (.ev .reset) = .ok .evReset ∧
    decode .xor100 (.ev (.restore ⟨.off, 3#3, true, false, true, true, false⟩)) =
      .ok (.evRestore ⟨.off, 3#3, true, false, true, true, false⟩) ∧
    decode .xor100 (.ev (.fdcIrq true)) = .ok (.evFdcIrq true) ∧
    decode .xor100 (.ev (.fdcDrq false)) = .ok (.evFdcDrq false) ∧
    decode .xor100 (.ev (.centBusy true)) = .ok (.evCentBusy true) ∧
    decode .xor100 (.ev (.centSelect false)) = .ok (.evCentSelect false) ∧
    decode .xor100 (.ev (.ctcZc 3#2 false)) = .ok (.evCtcZc 3#2 false) ∧
    decode .xor100 (.ev (.serLine .b .cts true)) = .ok (.evSerLine .b .cts true) := by decide

theorem test_decode_rejects :
    decode .xor100 (.mr 0x10000 1) = .error .addressTooWide ∧ decode .xor100 (.mr 0 2) = .error .badWidth ∧
    decode .xor100 (.mw 0 1 0x100#16) = .error .dataTooWide ∧ decode .tr175 (.mr 1 2) = .error .misalignedWord ∧
    decode .tr175 (.ir 0) = .error .noIoSpace ∧ decode .tr175 (.iw 8 0#8) = .error .noIoSpace ∧
    decode .tr175 (.mr 0 4) = .error .badWidth := by decide

theorem test_table_words :
    decodeTableWord 8 0b00001000 = some (.outBanksel 0#8) ∧ decodeTableWord 8 0b00001010 = some .inEpromF800 ∧
    decodeTableWord 16 0b1111100000000001 = some (.rdHi 0xF801#16) ∧
    decodeTableWord 24 0b1 = some (.rdGen 1#24 .byte) := by decide

/-! ### Memory windows (95_test_vectors section 4) -/

theorem test_rdHi :
    byteOf (.rdHi 0xFFFF#16) (st .f800 1) = got 0x06#8 ∧ byteOf (.rdHi 0xF810#16) (st .f800 5) = got 0x10#8 ∧
    byteOf (.rdHi 0xF810#16) (st .off 0) = got 0x55#8 ∧ byteOf (.rdHi 0xFFFF#16) (st .off 1) = got 0x77#8 ∧
    byteOf (.rdHi 0xF810#16) (st .off 4) = got 0xFF#8 := by decide

theorem test_rdLo :
    byteOf (.rdLo 0x0010#16) (st .zero 0) = got 0x10#8 ∧ byteOf (.rdLo 0x1234#16) (st .zero 7) = got 0x36#8 ∧
    byteOf (.rdLo 0xF7FF#16) (st .zero 0) = got 0x06#8 ∧ byteOf (.rdLo 0x0010#16) (st .f800 0) = got 0xAB#8 ∧
    byteOf (.rdLo 0x0010#16) (st .f800 5) = got 0xFF#8 ∧ byteOf (.rdLo 0x0000#16) (st .off 3) = got 0x99#8 := by decide

theorem test_rdLo_without_mirror :
    byteOf (.rdLo 0x0800#16) (mk { cfg with zeroLowMirror := false } .zero 0) = got 0xFF#8 ∧
    byteOf (.rdLo 0x07FF#16) (mk { cfg with zeroLowMirror := false } .zero 0) = got 0x06#8 ∧
    byteOf (.rdLo 0x0000#16) (mk { cfg with idleMem := .zeros, bankCount := 0 } .off 0) = got 0x00#8 := by decide

theorem test_wrWin :
    after (.wrWin 0xFFFF#16 0x01#8) (st .zero 2) (·.ramByte 0x2FFFF) = some 0x01#8 ∧
    after (.wrWin 0x0000#16 0x42#8) (st .off 3) (·.ramByte 0x30000) = some 0x42#8 ∧
    after (.wrWin 0x0010#16 0xCD#8) (st .zero 4) (·.ram) = some ramT ∧
    after (.wrWin 0x8000#16 0xCD#8) (st .off 7) (·.ram) = some ramT := by decide

theorem test_wrWin_window_end :
    after (.wrWin 0xF810#16 0xEE#8) (mk { cfg with writeWindowEnd := .atF7FF } .f800 0) (·.ram) = some ramT ∧
    after (.wrWin 0xF7FF#16 0xEE#8) (mk { cfg with writeWindowEnd := .atF7FF } .f800 0) (·.ramByte 0x0F7FF) =
      some 0xEE#8 := by decide

/-! ### The bank switch (95_test_vectors section 5) -/

theorem test_outBanksel :
    mapOf (.outBanksel 0xFD#8) (st .zero 0) = some (.zero, 5#3, ⟨.detached, .romMirror, .rom⟩) ∧
    mapOf (.outBanksel 0x04#8) (st .f800 1) = some (.f800, 4#3, ⟨.detached, .detached, .rom⟩) ∧
    mapOf (.outBanksel 0x03#8) (st .f800 4) = some (.f800, 3#3, ⟨.ram 3#3, .ram 3#3, .rom⟩) := by decide

theorem test_outEpromToggle :
    mapOf (.outEpromToggle 0x00#8) (st .f800 2) = some (.off, 2#3, ⟨.ram 2#3, .ram 2#3, .ram 2#3⟩) ∧
    mapOf (.outEpromToggle 0xFF#8) (st .off 2) = some (.f800, 2#3, ⟨.ram 2#3, .ram 2#3, .rom⟩) ∧
    mapOf (.outEpromToggle 0x00#8) (st .zero 2) = some (.zero, 2#3, ⟨.ram 2#3, .romMirror, .rom⟩) := by decide

theorem test_inEpromF800 :
    byteOf .inEpromF800 (mk { cfg with idleIo := .zeros } .off 0) = got 0xFF#8 ∧
    mapOf .inEpromF800 (st .off 5) = some (.f800, 5#3, ⟨.detached, .detached, .rom⟩) ∧
    mapOf .inEpromF800 (st .zero 0) = some (.f800, 0#3, ⟨.ram 0#3, .ram 0#3, .rom⟩) := by decide

theorem test_bind_corners :
    bind { cfg with bankCount := 8 } .off 7#3 = ⟨.ram 7#3, .ram 7#3, .ram 7#3⟩ ∧
    bind { cfg with bankCount := 0 } .off 0#3 = ⟨.detached, .detached, .detached⟩ ∧
    bind { cfg with bankCount := 1 } .f800 1#3 = ⟨.detached, .detached, .rom⟩ := by decide

/-! ### Serial, baud, parallel, counter/timer (95_test_vectors section 7) -/

/-- A state whose collaborator will answer the next read with a byte. -/
def answering (v : Byte) : State := { st .zero 0 with chipBytes := [v] }

theorem test_serial_reads :
    byteOf .inSeraData (answering 0x41#8) = got 0x41#8 ∧ after .inSeraStat (answering 0#8) (·.calls) = some [.read .serA 1] ∧
    after .inSerbData (answering 0#8) (·.calls) = some [.read .serB 0] ∧
    after .inSerbStat (answering 0#8) (·.calls) = some [.read .serB 1] := by decide

theorem test_serial_writes :
    after (.outSeraData 0x41#8) (st .zero 0) (·.calls) = some [.write .serA 0 0x41#8] ∧
    after (.outSeraCtrl 0x37#8) (st .zero 0) (·.calls) = some [.write .serA 1 0x37#8] ∧
    after (.outSerbData 0x0D#8) (st .zero 0) (·.calls) = some [.write .serB 0 0x0D#8] ∧
    after (.outSerbCtrl 0x40#8) (st .zero 0) (·.calls) = some [.write .serB 1 0x40#8] := by decide

theorem test_inDip : byteOf .inDip (run (.outBaud 0xEC#8) (st .zero 0)) = got 0xEE#8 := by decide

theorem test_outBaud :
    after (.outBaud 0xEC#8) (st .zero 0) (fun t => (t.baudA, t.baudB)) = some (0xC#4, 0xE#4) ∧
    after (.outBaud 0x0F#8) (st .zero 0) (fun t => (t.baudA, t.baudB)) = some (0xF#4, 0x0#4) := by decide

theorem test_parallel_reads :
    after .inPpiA (answering 0#8) (·.calls) = some [.read .ppi 0] ∧
    after .inPpiB (answering 0#8) (·.calls) = some [.read .ppi 1] ∧
    byteOf .inPpiCtrl (answering 0x89#8) = got 0x89#8 ∧
    after .inPpiCtrl (answering 0#8) (·.calls) = some [.read .ppi 3] := by decide

theorem test_parallel_writes :
    after (.outPpiA 0x41#8) (st .zero 0) (·.centData) = some 0x41#8 ∧
    after (.outPpiB 0x01#8) (st .zero 0) (·.centStrobe) = some true ∧
    after (.outPpiB 0xFE#8) { st .zero 0 with centStrobe := true } (·.centStrobe) = some false ∧
    after (.outPpiCtrl 0x89#8) (st .zero 0) (·.calls) = some [.write .ppi 3 0x89#8] := by decide

theorem test_inPpiC :
    byteOf .inPpiC (st .zero 0) = got 0x00#8 ∧ byteOf .inPpiC { st .zero 0 with centSelect := true } = got 0x10#8 ∧
    byteOf .inPpiC (run (.outPpiC 0x00#8) { st .zero 0 with centBusy := true }) = got 0x20#8 ∧
    byteOf .inPpiC { st .zero 0 with centBusy := true, centSelect := true } = got 0x30#8 := by decide

theorem test_counter_timer :
    after (.inCtc 1#2) (answering 0#8) (·.calls) = some [.read .ctc 1] ∧
    after (.outCtc 3#2 0x10#8) (st .zero 0) (·.calls) = some [.write .ctc 3 0x10#8] := by decide

/-! ### Floppy (95_test_vectors section 6) -/

theorem test_inFdc :
    byteOf (.inFdc 0#2) (answering 0x80#8) = got 0x7F#8 ∧ byteOf (.inFdc 3#2) (answering 0x00#8) = got 0xFF#8 := by decide

theorem test_outFdc :
    after (.outFdc 0#2 0x2F#8) (st .zero 0) (·.calls) = some [.write .fdc 0 0xD0#8] ∧
    after (.outFdc 2#2 0xFF#8) (st .zero 0) (·.calls) = some [.write .fdc 2 0x00#8] := by decide

theorem test_selectDrive_all_values :
    (List.range 16).map (fun n => selectDrive (BitVec.ofNat 4 n)) =
      [none, some 0, some 1, some 1, some 2, some 2, some 2, some 2, some 3, some 3, some 3, some 3, some 3, some 3,
        some 3, some 3] := by decide

theorem test_outFdcDsel :
    after (.outFdcDsel 0x05#8) (st .zero 0) (fun t => (t.selectedDrive, t.motorOn)) =
      some (some 2, ⟨false, false, true, false⟩) ∧
    after (.outFdcDsel 0x80#8) { st .zero 0 with selectedDrive := some 3, motorOn := ⟨false, false, true, true⟩ }
      (fun t => (t.selectedDrive, t.motorOn)) = some (none, ⟨false, false, true, true⟩) := by decide

theorem test_outFdcDens :
    after (.outFdcDens 0x03#8) (st .zero 0) (·.density) = some true ∧
    after (.outFdcDens 0x01#8) (st .zero 0) (·.density) = some true ∧
    after (.outFdcDens 0xFC#8) { st .zero 0 with density := true } (·.density) = some true ∧
    after (.outFdcDens 0xFE#8) { st .zero 0 with density := true } (·.density) = some false := by decide

theorem test_inFdcWait_values :
    byteOf .inFdcWait { st .zero 0 with drq := true } = got 0x80#8 ∧
    byteOf .inFdcWait { st .zero 0 with irq := true } = got 0x00#8 ∧
    byteOf .inFdcWait { mk { cfg with fcIrqInverted := false } .zero 0 with irq := true } = got 0x80#8 ∧
    byteOf .inFdcWait (mk { cfg with fcBusyFault := false } .zero 0) = got 0x80#8 := by decide

theorem test_inFdcWait_busy : causeOf .inFdcWait (st .zero 0) = some .busyRead := by decide

theorem test_evFdcIrq :
    causeOf (.evFdcIrq true) (st .zero 0) = some .irqRise ∧
    after (.evFdcIrq true) { st .zero 0 with irq := true } (fun t => (t.irq, t.fault)) = some (true, none) ∧
    after (.evFdcIrq false) { st .zero 0 with irq := true } (fun t => (t.irq, t.fault)) = some (false, none) := by decide

theorem test_evFdcDrq :
    causeOf (.evFdcDrq true) (st .zero 0) = some .drqRise ∧
    after (.evFdcDrq false) { st .zero 0 with drq := true } (fun t => (t.drq, t.fault)) = some (false, none) := by decide

/-! ### Unmapped ports, events (95_test_vectors sections 2, 7, 8) -/

theorem test_unmapped :
    byteOf (.inUnmapped 0x10#8) (st .zero 0) = got 0xFF#8 ∧
    byteOf (.inUnmapped 0x10#8) (mk { cfg with idleIo := .zeros } .zero 0) = got 0x00#8 ∧
    after (.outUnmapped 0xFF#8 0x55#8) (st .zero 0) id = some (st .zero 0) := by decide

theorem test_evReset :
    mapOf .evReset (st .off 3) = some (.zero, 3#3, ⟨.ram 3#3, .romMirror, .rom⟩) ∧
    mapOf .evReset (st .f800 6) = some (.zero, 6#3, ⟨.detached, .romMirror, .rom⟩) := by decide

theorem test_evPoweron :
    mapOf .evPoweron (st .off 3) = some (.zero, 0#3, ⟨.ram 0#3, .romMirror, .rom⟩) ∧
    after .evPoweron { st .off 3 with fault := some .irqRise } (·.fault) = some none := by decide

theorem test_evRestore :
    after (.evRestore ⟨.off, 3#3, true, false, true, true, false⟩) (st .zero 0)
      (fun t => (t.win, t.save, t.fault)) =
      some (⟨.ram 3#3, .ram 3#3, .ram 3#3⟩, ⟨.off, 3#3, true, false, true, true, false⟩, none) := by decide

theorem test_printer_events :
    after (.evCentBusy true) (st .zero 0) (·.centBusy) = some true ∧
    after (.evCentSelect false) { st .zero 0 with centSelect := true } (·.centSelect) = some false := by decide

theorem test_no_op_events :
    after (.evCtcZc 3#2 false) (st .zero 0) id = some (st .zero 0) ∧
    after (.evSerLine .a .rxd true) (st .zero 0) id = some (st .zero 0) := by decide

/-! ### The generic table of 95_test_vectors section 9 -/

def genHandler : HandlerRef := ⟨7, true, true⟩

def genEntries : List Entry :=
  [Entry.span 0x000000 0x00FFFF (.direct (.other 0) 0 0xFFFFFF), Entry.span 0x010000 0x7FFFFF (.unmapped .ones),
    Entry.span 0x800000 0x80000F (.handler genHandler .hi 0xFF#8), Entry.span 0x800010 0xFFFFFF (.unmapped .ones)]

def genCfg : Config := { cfg with machine := .tr175, tr175Table := ⟨genEntries, genEntries⟩ }

def genRegion : Region := ⟨0x10000, true, [(0, 0x12#8), (1, 0x34#8)]⟩

def gen : State := { mk genCfg .zero 0 with regions := [genRegion], chipBytes := [0xA2#8] }

def word (v : Word16) : Option (Option BusData) := some (some (.word v))

theorem test_rdGen :
    byteOf (.rdGen 0x000000#24 .word) gen = word 0x1234#16 ∧ byteOf (.rdGen 0x000001#24 .byte) gen = got 0x34#8 ∧
    byteOf (.rdGen 0x800001#24 .byte) gen = got 0xFF#8 ∧ byteOf (.rdGen 0x800004#24 .word) gen = word 0xA2FF#16 ∧
    after (.rdGen 0x800004#24 .word) gen (·.calls) = some [.read (.handler 7) 2] ∧
    byteOf (.rdGen 0x900000#24 .word) gen = word 0xFFFF#16 := by decide

theorem test_rdGen_little_endian :
    byteOf (.rdGen 0x000000#24 .word) { gen with cfg := { genCfg with bus16BigEndian := false } } = word 0x3412#16 := by
  decide

theorem test_wrGen :
    byteOf (.rdGen 0x000000#24 .word) (run (.wrGen 0x000000#24 (.byte 0xAB#8)) gen) = word 0xAB34#16 ∧
    after (.wrGen 0x800006#24 (.word 0x1234#16)) gen (·.calls) = some [.write (.handler 7) 3 0x12#8] ∧
    after (.wrGen 0x800007#24 (.byte 0x99#8)) gen id = some gen := by decide

/-! ### Witnesses: states and operands that meet the hypotheses of the obligations -/

/-- FloppyRegisterWriteIsInverted, DipSwitchReadAndBaudWrite, PrinterLatchAndStrobe, PrinterCaptureBits,
UnmappedPortsAreIdle, BankSelectWrite, DriveSelectWrite, DensityWrite and SignalEventsOfPrinterTimerAndSerialLines ask only
for a state of xor100. -/
theorem witness_xor100 : (st .zero 0).cfg.machine = .xor100 := rfl

theorem witness_SerialPortsPassThrough :
    (st .zero 0).cfg.machine = .xor100 ∧
    (Instr.inSerbStat, Instr.outSerbCtrl 0xFF#8, Chip.serB, 1) ∈
      [(Instr.inSeraData, Instr.outSeraData 0xFF#8, Chip.serA, 0), (.inSeraStat, .outSeraCtrl 0xFF#8, .serA, 1),
      (.inSerbData, .outSerbData 0xFF#8, .serB, 0), (.inSerbStat, .outSerbCtrl 0xFF#8, .serB, 1)] := by
  exact ⟨rfl, by simp⟩

theorem witness_ParallelAndTimerPortsPassThrough :
    (st .zero 0).cfg.machine = .xor100 ∧
    (Instr.inCtc 3#2, Chip.ctc, (3#2).toNat) ∈
      [(Instr.inPpiA, Chip.ppi, 0), (.inPpiB, .ppi, 1), (.inPpiCtrl, .ppi, 3), (.inCtc 3#2, .ctc, (3#2).toNat)] ∧
    (Instr.outCtc 3#2 0xFF#8, Chip.ctc, (3#2).toNat) ∈
      [(Instr.outPpiC 0xFF#8, Chip.ppi, 2), (.outPpiCtrl 0xFF#8, .ppi, 3), (.outCtc 3#2 0xFF#8, .ctc, (3#2).toNat)] := by
  exact ⟨rfl, by simp, by simp⟩

theorem witness_FloppyRegisterReadIsInverted :
    (answering 0xD0#8).cfg.machine = .xor100 ∧ (answering 0xD0#8).chipBytes = (~~~(0x2F#8)) :: [] := by decide

/-- One operation for each way to a new mode or selector, and a next state in each row of the binding table. -/
theorem witness_WindowsFollowTheBindingTable :
    (exec (.outBanksel 3#8) (st .f800 7) = .next (run (.outBanksel 3#8) (st .f800 7)) ∧
      (run (.outBanksel 3#8) (st .f800 7)).mode = .f800 ∧ (run (.outBanksel 3#8) (st .f800 7)).selector = 3#3 ∧
      (st .f800 7).cfg.bankCount = 4) ∧
    (exec (.outBanksel 4#8) (st .off 0) = .next (run (.outBanksel 4#8) (st .off 0)) ∧
      (run (.outBanksel 4#8) (st .off 0)).mode = .off ∧ (run (.outBanksel 4#8) (st .off 0)).selector = 4#3) ∧
    (exec (.outEpromToggle 0#8) (st .f800 3) = .next (run (.outEpromToggle 0#8) (st .f800 3)) ∧
      (run (.outEpromToggle 0#8) (st .f800 3)).mode = .off) ∧
    (exec .inEpromF800 (st .zero 4) = .next (run .inEpromF800 (st .zero 4)) ∧
      (run .inEpromF800 (st .zero 4)).mode = .f800) ∧
    (exec .evReset (st .off 7) = .next (run .evReset (st .off 7)) ∧ (run .evReset (st .off 7)).mode = .zero) ∧
    exec .evPoweron (st .off 7) = .next (run .evPoweron (st .off 7)) ∧
    exec (.evRestore (st .off 3).save) (st .zero 0) = .next (run (.evRestore (st .off 3).save) (st .zero 0)) := by
  refine ⟨⟨rfl, rfl, rfl, rfl⟩, ⟨rfl, rfl, rfl⟩, ⟨rfl, rfl⟩, ⟨rfl, rfl⟩, ⟨rfl, rfl⟩, rfl, rfl⟩

theorem witness_coherent (c : Config) (m : Mode) (q : BitVec 3) : (mk c m q).Coherent := rfl

theorem witness_ToggleWrite :
    (∀ m : Mode, (st m 3).cfg.machine = .xor100 ∧ (st m 3).mode = m ∧ (st m 3).Coherent) :=
  fun _ => ⟨rfl, rfl, rfl⟩

/-- A run of each row of the transition table, from and to each mode, and a step that faults. -/
theorem witness_ModeTransitionTable :
    (∀ m : Mode, exec (.outEpromToggle 0#8) (st m 0) = .next (run (.outEpromToggle 0#8) (st m 0))) ∧
    exec .inEpromF800 (st .off 0) = .next (run .inEpromF800 (st .off 0)) ∧
    (exec .evReset (st .off 0) = .next (run .evReset (st .off 0)) ∧ (st .off 0).mode ≠ .zero ∧
      (run .evReset (st .off 0)).mode = .zero) ∧
    (exec (.outEpromToggle 0#8) (st .f800 0) = .next (run (.outEpromToggle 0#8) (st .f800 0)) ∧
      (st .f800 0).mode ≠ .off ∧ (run (.outEpromToggle 0#8) (st .f800 0)).mode = .off) ∧
    exec .inDip (st .off 0) = .next (run .inDip (st .off 0)) ∧
    exec .inFdcWait (st .off 0) = .fault (.unsupportedWaitState .busyRead { st .off 0 with fault := some .busyRead }) ∧
    (st .zero 0).mode = .zero := by
  refine ⟨fun m => by cases m <;> rfl, rfl, ⟨rfl, by decide, rfl⟩, ⟨rfl, by decide, rfl⟩, rfl, rfl, rfl⟩

theorem witness_SelectorChangesOnlyByItsWriters :
    exec (.outBanksel 0xFF#8) (st .zero 0) = .next (run (.outBanksel 0xFF#8) (st .zero 0)) ∧
    exec (.evRestore (st .off 7).save) (st .zero 0) = .next (run (.evRestore (st .off 7).save) (st .zero 0)) ∧
    exec .evPoweron (st .off 7) = .next (run .evPoweron (st .off 7)) ∧
    exec .evReset (st .off 7) = .next (run .evReset (st .off 7)) := ⟨rfl, rfl, rfl, rfl⟩

/-- A byte of each command of DensityWrite, with bits above the command set. -/
theorem witness_DensityWrite :
    (0xFC#8).toNat % 4 = 0 ∧ (0xFD#8).toNat % 4 = 1 ∧ (0xFE#8).toNat % 4 = 2 ∧ (0xFF#8).toNat % 4 = 3 := by decide

theorem witness_NextAccessSeesTheNewBindings :
    (run (.outEpromToggle 0#8) (st .f800 3)).cfg.machine = .xor100 ∧
    exec (.outEpromToggle 0#8) (st .f800 3) = .next (run (.outEpromToggle 0#8) (st .f800 3)) ∧
    physWrite cfg (run (.outEpromToggle 0#8) (st .f800 3)).selector 0xFFFF#16 = .ram 0x3FFFF ∧
    physWrite cfg (run (.outBanksel 4#8) (st .f800 3)).selector 0xFFFF#16 = .none := by
  exact ⟨rfl, rfl, by decide, by decide⟩

theorem witness_RebindingARangeLeavesTheRestAlone :
    (0x1000 ≤ 0x1FFF ∧ 0x0FFF < 0x1000 ∧ 0x1FFF < 0x2000) ∧
    ∀ e ∈ [Entry.span 0x1000 0x1FFF (.unmapped .ones)], 0x1000 ≤ e.start ∧ e.stop ≤ 0x1FFF := by decide

theorem witness_ForcedModeRead :
    exec .inEpromF800 (st .zero 7) = .next (run .inEpromF800 (st .zero 7)) ∧ (st .zero 7).mode = .zero ∧
    (run .inEpromF800 (st .zero 7)).mode ≠ .zero := by
  exact ⟨rfl, rfl, by decide⟩

/-- Selectors in and out of range, in each mode, with the bindings up to date. -/
theorem witness_window_clauses_with_coherent_bindings :
    (∀ (m : Mode) (q : BitVec 3), (st m q).Coherent ∧ (st m q).mode = m ∧ (st m q).selector = q) ∧
    (st .off 4).cfg.bankCount.val ≤ (4#3).toNat ∧ (3#3).toNat < (st .off 3).cfg.bankCount.val ∧
    (st .zero 0).cfg.zeroLowMirror = true := by
  exact ⟨fun _ _ => ⟨rfl, rfl, rfl⟩, by decide, by decide, rfl⟩

/-- The last byte of the last bank, read and written; the last byte of the ROM. -/
theorem witness_AccessesReachThePhysicalByte :
    physRead (st .off 3).cfg .off 3#3 0xFFFF#16 = .ram 0x3FFFF ∧ physWrite (st .off 3).cfg 3#3 0xFFFF#16 = .ram 0x3FFFF ∧
    physWrite (st .off 4).cfg 4#3 0x0000#16 = .none ∧
    physRead (st .f800 0).cfg .f800 0#3 0xFFFF#16 = .rom 0x7FF ∧ (st .off 3).Coherent := by
  exact ⟨by decide, by decide, by decide, by decide, rfl⟩

/-- Each binding of the high window, at the first and the last address of it. -/
theorem witness_HighWindowRead :
    (0xF800 ≤ (0xF800#16).toNat ∧ (st .zero 0).win.rh = .rom) ∧
    (0xF800 ≤ (0xFFFF#16).toNat ∧ (st .off 3).win.rh = .ram 3#3) ∧ (st .off 4).win.rh = .detached := by decide

/-- Each binding of the low window, with and without the mirror, at the boundary addresses. -/
theorem witness_LowWindowRead :
    ((0xF7FF#16).toNat < 0xF800 ∧ (st .zero 0).win.rl = .romMirror ∧ (st .zero 0).cfg.zeroLowMirror = true) ∧
    ((0x07FF#16).toNat ≤ 0x07FF ∧ 0x07FF < (0x0800#16).toNat ∧
      (mk { cfg with zeroLowMirror := false } .zero 0).cfg.zeroLowMirror = false ∧
      (mk { cfg with zeroLowMirror := false } .zero 0).win.rl = .romMirror) ∧
    (st .f800 3).win.rl = .ram 3#3 ∧ (st .off 4).win.rl = .detached := by decide

theorem witness_WriteWindowStoresOneByte :
    ((st .zero 3).win.w = .ram 3#3 ∧ (0xFFFF#16).toNat ≤ (st .zero 3).cfg.writeWindowEnd.addr) ∧
    (0xF7FF#16).toNat ≤ (mk { cfg with writeWindowEnd := .atF7FF } .zero 0).cfg.writeWindowEnd.addr ∧
    (mk { cfg with writeWindowEnd := .atF7FF } .zero 0).cfg.writeWindowEnd.addr < (0xF800#16).toNat ∧
    (st .zero 4).win.w = .detached := by decide

/-- A byte with a physical RAM address that a write reaches: the last of the last bank in range. -/
theorem witness_ReadAfterWriteByAnyName :
    (st .off 3).cfg.machine = .xor100 ∧ (st .off 3).Coherent ∧
    physRead (st .off 3).cfg (st .off 3).mode (st .off 3).selector 0xFFFF#16 =
      physWrite (st .off 3).cfg (st .off 3).selector 0xFFFF#16 ∧
    physRead (st .off 3).cfg (st .off 3).mode (st .off 3).selector 0xFFFF#16 ≠ .none := by
  exact ⟨rfl, rfl, by decide, by decide⟩

/-- Both ends of each window; the low window with the mirror and without it. -/
theorem witness_WriteUnderRomAppearsWhenTheModeChanges :
    ((st .zero 3).cfg.machine = .xor100 ∧ (st .zero 3).Coherent ∧ (st .zero 3).mode = .zero ∧
      (st .zero 3).selector.toNat < (st .zero 3).cfg.bankCount.val ∧ (st .zero 3).cfg.zeroLowMirror = true ∧
      (0xF7FF#16).toNat < 0xF800 ∧ (0x07FF#16).toNat ≤ 0x07FF) ∧
    ((mk { cfg with zeroLowMirror := false } .zero 3).Coherent ∧
      (mk { cfg with zeroLowMirror := false } .zero 3).mode = .zero) ∧
    (st .f800 3).Coherent ∧ (st .f800 3).selector.toNat < (st .f800 3).cfg.bankCount.val ∧
    (st .zero 3).mode ≠ .off ∧ (st .f800 3).mode ≠ .off ∧
    0xF800 ≤ (0xF800#16).toNat ∧ (0xFFFF#16).toNat ≤ (st .f800 3).cfg.writeWindowEnd.addr :=
  ⟨⟨rfl, rfl, rfl, by decide, rfl, by decide, by decide⟩, ⟨rfl, rfl⟩, rfl, by decide, by decide, by decide, by decide,
    by decide⟩

theorem witness_OutOfRangeSelectorHidesRam :
    (st .f800 0).cfg.machine = .xor100 ∧ (st .f800 0).mode ≠ .zero ∧ (0xF7FF#16).toNat < 0xF800 ∧
    (st .f800 0).cfg.bankCount.val ≤ (4#8).toNat % 8 ∧ (3#8).toNat % 8 < (st .f800 0).cfg.bankCount.val ∧
    exec (.outBanksel 4#8) (st .f800 0) = .next (run (.outBanksel 4#8) (st .f800 0)) := by
  exact ⟨rfl, by decide, by decide, by decide, by decide, rfl⟩

theorem witness_WaitStatusReadCompletes :
    (mk { cfg with fcBusyFault := false } .zero 0).cfg.fcBusyFault = false ∧ { st .zero 0 with irq := true }.irq = true ∧
    { st .zero 0 with drq := true }.drq = true := ⟨rfl, rfl, rfl⟩

/-- A host that stalls, and a CPU it holds. -/
def stallCfg : Config := { cfg with hostWait := .stall }

def stalled (rest : List BusItem) : State := { mk stallCfg .zero 0 with cpuWait := true, inputs := rest }

theorem witness_FloppyLineEventsWithoutEdge :
    { st .zero 0 with irq := true, drq := true }.irq = true ∧ { st .zero 0 with irq := true, drq := true }.drq = true ∧
    { st .zero 0 with irq := true, drq := true }.cpuWait = false ∧ (stalled []).cpuWait = true := ⟨rfl, rfl, rfl, rfl⟩

theorem witness_WaitRequestsFaultByDefault :
    (st .zero 0).cfg.machine = .xor100 ∧ (st .zero 0).cfg.hostWait = .unsupported ∧ (st .zero 0).cfg.fcBusyFault = true ∧
    (st .zero 0).irq = false ∧ (st .zero 0).drq = false ∧ (st .zero 0).cpuWait = false := by decide

theorem witness_StallHostDrivesTheWaitLine :
    (mk stallCfg .zero 0).cfg.machine = .xor100 ∧ (mk stallCfg .zero 0).cfg.hostWait = .stall ∧
    (mk stallCfg .zero 0).cfg.fcBusyFault = true ∧ (mk stallCfg .zero 0).irq = false ∧
    (mk stallCfg .zero 0).drq = false := by decide

/-- A stalled CPU with a transaction to issue; a power-on that ends a stall; a step of a host without stalls. -/
theorem witness_StallLastsUntilAFloppyEvent :
    ((stalled [.ir 0]).cpuWait = true ∧ (stalled [.ir 0]).fault = none ∧ (stalled [.ir 0]).inputs = .ir 0 :: [] ∧
      (BusItem.ir 0).format ≠ .EV) ∧
    (step (stalled [.ev .powerOn]) = .next ((stalled [.ev .powerOn]).accept []).powerOn ∧
      ((stalled [.ev .powerOn]).accept []).powerOn.cpuWait = false) ∧
    step { st .zero 0 with inputs := [.ir 0x0B] } =
      .next (run .inDip (State.accept { st .zero 0 with inputs := [.ir 0x0B] } [])) ∧
    { st .zero 0 with inputs := [.ir 0x0B] }.cfg.hostWait = .unsupported := by
  exact ⟨⟨rfl, rfl, rfl, by decide⟩, ⟨rfl, rfl⟩, rfl, rfl⟩

theorem witness_PowerOnState_regions : gen.regions[0]? = some genRegion := rfl

theorem witness_SaveRestoreRoundTrip : (st .off 3).Coherent ∧ (st .zero 7).cfg = (st .off 3).cfg := ⟨rfl, rfl⟩

/-- A state that meets the invariant, about to store a byte. -/
theorem witness_StepKeepsTheInvariant :
    State.Inv { st .off 3 with inputs := [.mw 0xFFFF 1 0x42#16] } ∧
    step { st .off 3 with inputs := [.mw 0xFFFF 1 0x42#16] } = .next ((st .off 3).writeRam 0x3FFFF 0x42#8) := by
  refine ⟨⟨rfl, ⟨by decide, by decide⟩, ⟨by decide, by decide⟩, fun r hr => ?_⟩, rfl⟩
  exact absurd hr List.not_mem_nil

/-- A step that ends in a next state, and one that faults. -/
theorem witness_RomNeverChanges_ParametersNeverChange :
    step { st .zero 0 with inputs := [.ir 0x0B] } =
      .next (run .inDip (State.accept { st .zero 0 with inputs := [.ir 0x0B] } [])) ∧
    step { st .zero 0 with inputs := [.ir 0xFC] } =
      .fault (.unsupportedWaitState .busyRead { st .zero 0 with fault := some .busyRead }) := ⟨rfl, rfl⟩

theorem witness_OnlyMemoryWritesChangeMemory :
    exec (.rdLo 0#16) (st .zero 0) = .next (run (.rdLo 0#16) (st .zero 0)) ∧ (Instr.rdLo 0#16).format ≠ .MW ∧
    Instr.rdLo 0#16 ≠ .evPoweron := by
  exact ⟨rfl, by decide, by decide⟩

/-- Each of the three causes, and a state of tr175. -/
theorem witness_FaultsExactlyInTheThreeCases :
    exec (.evFdcIrq true) (st .zero 0) =
      .fault (.unsupportedWaitState .irqRise { st .zero 0 with irq := true, fault := some .irqRise }) ∧
    exec (.evFdcDrq true) (st .zero 0) =
      .fault (.unsupportedWaitState .drqRise { st .zero 0 with drq := true, fault := some .drqRise }) ∧
    exec .inFdcWait (st .zero 0) = .fault (.unsupportedWaitState .busyRead { st .zero 0 with fault := some .busyRead }) ∧
    gen.cfg.machine = .tr175 := ⟨rfl, rfl, rfl, rfl⟩

/-- A faulted machine asked to reset, and one powered on. -/
def faulted (x : BusItem) : State := { st .zero 0 with fault := some .busyRead, inputs := [x] }

theorem witness_FaultedMachineStops :
    ((faulted (.ev .reset)).fault = some .busyRead ∧ (faulted (.ev .reset)).inputs = .ev .reset :: [] ∧
      BusItem.ev .reset ≠ .ev .powerOn) ∧
    (faulted (.ev .powerOn)).inputs = .ev .powerOn :: [] := by
  exact ⟨⟨rfl, rfl, by decide⟩, rfl⟩

/-- Each kind of transaction, memory at the last address. -/
theorem witness_EveryTransactionOfXor100HasAMeaning :
    (∃ a, a < 0x10000 ∧ BusItem.mr 0xFFFF 1 = .mr a 1) ∧
    (∃ a, ∃ d : Word16, a < 0x10000 ∧ d.toNat < 256 ∧ BusItem.mw 0xFFFF 1 0xFF#16 = .mw a 1 d) ∧
    { st .zero 0 with inputs := [.mr 0xFFFF 1] }.fault = none ∧ { st .zero 0 with inputs := [.mr 0xFFFF 1] }.cpuWait = false ∧
    { st .zero 0 with inputs := [.mr 0xFFFF 1] }.inputs = .mr 0xFFFF 1 :: [] :=
  ⟨⟨0xFFFF, by decide, rfl⟩, ⟨0xFFFF, 0xFF#16, by decide, by decide, rfl⟩, rfl, rfl, rfl⟩

/-- A transaction of a free CPU, and an event while the CPU is held. -/
theorem witness_StepRunsTheDecodedOperation :
    ({ st .zero 0 with inputs := [.mr 0xF800 1] }.inputs = .mr 0xF800 1 :: [] ∧
      { st .zero 0 with inputs := [.mr 0xF800 1] }.fault = none ∧
      { st .zero 0 with inputs := [.mr 0xF800 1] }.cpuWait = false ∧
      decode .xor100 (.mr 0xF800 1) = .ok (.rdHi 0xF800#16)) ∧
    (stalled [.ev (.fdcIrq true)]).inputs = .ev (.fdcIrq true) :: [] ∧
    (stalled [.ev (.fdcIrq true)]).fault = none ∧ (BusItem.ev (.fdcIrq true)).format = .EV ∧
    decode (stalled [.ev (.fdcIrq true)]).cfg.machine (.ev (.fdcIrq true)) = .ok (.evFdcIrq true) :=
  ⟨⟨rfl, rfl, rfl, rfl⟩, rfl, rfl, rfl, rfl⟩

theorem witness_OperationsOfTheOtherMachineAreRefused :
    (Instr.rdGen 0#24 .byte).existsOn (st .zero 0).cfg.machine = false ∧
    (Instr.inEpromF800).existsOn gen.cfg.machine = false := by decide

theorem witness_DecodeOfEncodeIsTheOperation :
    (WellFormed (.rdLo 0xF7FF#16) = true ∧ (Instr.rdLo 0xF7FF#16).existsOn .xor100 = true) ∧
    (WellFormed (.inUnmapped 0xFD#8) = true ∧ (Instr.inUnmapped 0xFD#8).existsOn .xor100 = true) ∧
    WellFormed (.wrGen 0xFFFFFE#24 (.word 0#16)) = true ∧ (Instr.wrGen 0xFFFFFE#24 (.word 0#16)).existsOn .tr175 = true := by
  decide

theorem witness_DecodedOperationsAreWellFormed : decode .xor100 (.mr 0xF7FF 1) = .ok (.rdLo 0xF7FF#16) := by decide

theorem witness_MemoryDecodeByWindow :
    0xFFFF < 0x10000 ∧ 0xF800 ≤ 0xF800 ∧ 0xF7FF < 0xF800 ∧ 0xFFFFFF < 0x1000000 := by decide

/-- A read-only copy of the region of `gen`. -/
def genRo : State := { gen with regions := [{ genRegion with writable := false }] }

/-- Entries of each kind, the handler on the lane it answers and on the one it does not. -/
theorem witness_GenericByteAccess :
    gen.cfg.machine = .tr175 ∧
    (lookup gen.cfg.tr175Table.read (0x00FFFF#24).toNat = genEntries[0]? ∧
      0 + (((0x00FFFF#24).toNat - 0) &&& 0xFFFFFF) < gen.regionSize (.other 0)) ∧
    lookup gen.cfg.tr175Table.read (0x010000#24).toNat = genEntries[1]? ∧
    lookup gen.cfg.tr175Table.write (0xFFFFFF#24).toNat = genEntries[3]? ∧
    (lookup gen.cfg.tr175Table.write (0x80000E#24).toNat = genEntries[2]? ∧ (0x80000E#24).toNat % 2 = 0) ∧
    (lookup gen.cfg.tr175Table.write (0x80000F#24).toNat = genEntries[2]? ∧ (0x80000F#24).toNat % 2 ≠ 0) ∧
    gen.cfg.bus16BigEndian = true ∧ genHandler.canRead = true ∧ genHandler.canWrite = true ∧
    gen.regionWritable (.other 0) = true ∧ genRo.regionWritable (.other 0) = false := by decide

/-- A word read and a word write at address 0 as two byte accesses. -/
theorem witness_WordAccessIsTwoByteAccesses :
    (exec (.rdGen 0#24 .byte) gen = .next (gen.answer (.byte 0x12#8)) ∧
      exec (.rdGen (0#24 + 1#24) .byte) (gen.answer (.byte 0x12#8)) =
        .next ((gen.answer (.byte 0x12#8)).answer (.byte 0x34#8))) ∧
    exec (.wrGen 0#24 (.byte 0xAB#8)) gen = .next (gen.writeRegion (.other 0) 0 0xAB#8) ∧
    exec (.wrGen (0#24 + 1#24) (.byte 0xCD#8)) (gen.writeRegion (.other 0) 0 0xAB#8) =
      .next ((gen.writeRegion (.other 0) 0 0xAB#8).writeRegion (.other 0) 1 0xCD#8) := ⟨⟨rfl, rfl⟩, rfl, rfl⟩

/-- Where writes at the edges of the entries store; two addresses of a word; a read-only region; no entry. -/
theorem witness_GenericAccessesCompleteOnLegalTables_stored :
    (BusData.byte 0#8).width = .byte ∧ (BusData.word 0#16).width = .word ∧ (0x00FFFE#24).toNat % 2 = 0 ∧
    gen.storedAt genEntries 0x00FFFE = some (.other 0, 0xFFFE) ∧
    gen.storedAt genEntries (0x00FFFE + 1) = some (.other 0, 0xFFFF) ∧ gen.storedAt genEntries 0x010000 = none ∧
    gen.storedAt genEntries 0x800000 = none ∧ gen.storedAt genEntries 0xFFFFFF = none ∧
    gen.storedAt genEntries 0x1000000 = none ∧ genRo.storedAt genEntries 0 = none := by decide

theorem witness_GenericAccessesCompleteOnLegalTables : gen.cfg.machine = .tr175 ∧ gen.LegalTr175 := by
  have h0 : Entry.Legal gen (Entry.span 0x000000 0x00FFFF (.direct (.other 0) 0 0xFFFFFF)) := by
    refine ⟨rfl, fun ref offset amask ht a ha hb => ?_⟩
    cases ht
    have : (a - 0) &&& 0xFFFFFF ≤ a - 0 := Nat.and_le_left
    simp only [Entry.span, directIndex] at *
    show 0 + ((a - 0) &&& 0xFFFFFF) < 0x10000
    omega
  have h1 : ∀ e ∈ genEntries, Entry.Legal gen e := by
    simp only [genEntries, List.forall_mem_cons]
    exact ⟨h0, ⟨rfl, nofun⟩, ⟨rfl, nofun⟩, ⟨rfl, nofun⟩, nofun⟩
  have h2 : ∀ e ∈ genEntries, Entry.WriteLegal gen e := by
    simp only [genEntries, List.forall_mem_cons]
    refine ⟨fun ref offset amask ht => ?_, nofun, nofun, nofun, nofun⟩
    cases ht; rfl
  have h3 : ∀ e ∈ genEntries, Entry.EvenOdd e := by
    simp only [genEntries, List.forall_mem_cons]
    exact ⟨⟨rfl, rfl⟩, ⟨rfl, rfl⟩, ⟨rfl, rfl⟩, ⟨rfl, rfl⟩, nofun⟩
  have ht : Tiles genEntries 0 0xFFFFFF := by
    simp [genEntries, Tiles, Entry.span]
  exact ⟨rfl, ⟨⟨ht, h1⟩, ht, fun e he => ⟨h1 e he, h2 e he⟩⟩, h3, h3⟩

theorem witness_MisalignedAndWideRequestsAreRefused :
    gen.cfg.machine = .tr175 ∧ (0xFFFFFF#24).toNat % 2 = 1 ∧ 0xFFFF < 0x10000 := by decide

end Sys2Proof.Tests
end

/-! ### Restore (70 R149), and the ROM under every step (10_state R19) -/

namespace Sys2Proof.Machine

/-! #### Restore -/

theorem exec_evRestore (p : Persisted) (s : State) : exec (.evRestore p) s = .next (s.load p) := rfl

/-- Saving after a load gives back what was loaded (70 R148, R149). -/
@[simp] theorem save_load (s : State) (p : Persisted) : (s.load p).save = p := rfl

/-- A load ends with the rebind, so its bindings are up to date (10_state R18). -/
theorem load_coherent (s : State) (p : Persisted) : (s.load p).Coherent := by
  simp only [State.Coherent, load_win, load_cfg, load_mode, load_selector]

/-- Settles O37: the next state is `s.load p`, and the laws of `State.load` give each clause. -/
theorem restoreLoadsThePersistedFields : Obligations.RestoreLoadsThePersistedFields := fun s p =>
  ⟨s.load p, exec_evRestore p s, save_load s p, load_coherent s p, rfl⟩

/-! #### What a step that faults can do -/

theorem onTr175_fault {s : State} {f : Fault} {run : State → Result} (h : onTr175 s run = .fault f) :
    s.cfg.machine = .tr175 ∧ run s = .fault f := by
  unfold onTr175 at h
  split at h
  · exact ⟨‹_›, h⟩
  · cases h

/-- A wait request whose continuation cannot fault ends in a fault only by raising its own cause (60 R127). -/
theorem waitRequest_fault {cause : WaitCause} {s : State} {rest : State → Result} {f : Fault}
    (h : waitRequest cause s rest = .fault f) (hrest : rest s.driveWait ≠ .fault f) :
    s.cfg.hostWait = .unsupported ∧ f = .unsupportedWaitState cause { s with fault := some cause } := by
  rcases waitRequest_cases cause s rest with ⟨hw, e⟩ | ⟨-, e⟩
  · rw [e] at h; cases h; exact ⟨hw, rfl⟩
  · exact absurd (e.symm.trans h) hrest

theorem risingEdge_eq_true {old new : Bool} : risingEdge old new = true ↔ old = false ∧ new = true := by
  simp [risingEdge]

/-- A floppy line event faults only on a rising edge, in the request it then makes (44 R119, R120). -/
theorem lineEvent_fault {cause : WaitCause} {u : State} {old b : Bool} {f : Fault}
    (h : (if risingEdge old b then waitRequest cause u .next else .next u) = .fault f) :
    old = false ∧ b = true ∧ u.cfg.hostWait = .unsupported ∧
      f = .unsupportedWaitState cause { u with fault := some cause } := by
  split at h
  · obtain ⟨hold, hb⟩ := risingEdge_eq_true.1 ‹_›
    exact ⟨hold, hb, waitRequest_fault h nofun⟩
  · cases h

/-- The three wait requests (60 R126): the operation, its cause, and the state it asks in. -/
inductive WaitRequested (s : State) : Instr → WaitCause → State → Prop
  | irqRise : s.irq = false → WaitRequested s (.evFdcIrq true) .irqRise { s.stallMayEnd with irq := true }
  | drqRise : s.drq = false → WaitRequested s (.evFdcDrq true) .drqRise { s.stallMayEnd with drq := true }
  | busyRead : fcBusy s.cfg s.irq s.drq = true → WaitRequested s .inFdcWait .busyRead s

/-- An operation faults only on xor100, with `HOST_WAIT = unsupported`, in one of the three wait requests; the fault keeps
the state the request was made in, with its cause set (60 R126, R127). -/
theorem exec_fault_cases {i : Instr} {s : State} {f : Fault} (h : exec i s = .fault f) :
    s.cfg.machine = .xor100 ∧ s.cfg.hostWait = .unsupported ∧
      ∃ c u, WaitRequested s i c u ∧ f = .unsupportedWaitState c { u with fault := some c } := by
  cases i with
  | inFdcWait =>
    simp only [exec] at h
    obtain ⟨hm, h⟩ := onXor100_fault h
    split at h
    · obtain ⟨hw, hf⟩ := waitRequest_fault h nofun
      exact ⟨hm, hw, _, _, .busyRead ‹_›, hf⟩
    · cases h
  | evFdcIrq b =>
    simp only [exec] at h
    obtain ⟨hm, h⟩ := onXor100_fault h
    obtain ⟨hi, rfl, hw, hf⟩ := lineEvent_fault h
    exact ⟨hm, hw, _, _, .irqRise hi, hf⟩
  | evFdcDrq b =>
    simp only [exec] at h
    obtain ⟨hm, h⟩ := onXor100_fault h
    obtain ⟨hi, rfl, hw, hf⟩ := lineEvent_fault h
    exact ⟨hm, hw, _, _, .drqRise hi, hf⟩
  | wrWin a v =>
    simp only [exec] at h
    obtain ⟨-, h⟩ := onXor100_fault h
    split at h <;> cases h
  | rdGen _ _ | wrGen _ _ =>
    simp only [exec] at h
    obtain ⟨-, h⟩ := onTr175_fault h
    split at h
    · split at h <;> cases h
    · cases h
  | evPoweron | evReset | evRestore _ => cases h
  | rdHi _ | rdLo _ | outBanksel _ | outEpromToggle _ | inEpromF800 | inSeraData | outSeraData _ | inSeraStat
  | outSeraCtrl _ | inSerbData | outSerbData _ | inSerbStat | outSerbCtrl _ | inDip | outBaud _ | inPpiA | outPpiA _
  | inPpiB | outPpiB _ | inPpiC | outPpiC _ | inPpiCtrl | outPpiCtrl _ | inCtc _ | outCtc _ _ | inFdc _ | outFdc _ _
  | outFdcDsel _ | outFdcDens _ | inUnmapped _ | outUnmapped _ _ | evCentBusy _ | evCentSelect _ | evCtcZc _ _
  | evSerLine _ _ _ =>
    simp only [exec] at h
    cases (onXor100_fault h).2

/-- A machine whose fault is set stops with `alreadyFaulted`; nothing else about its blocking is a fault (60 R133). -/
theorem blocked_fault {s : State} {x : BusItem} {f : Fault} (h : blocked s x = some (.fault f)) :
    ∃ c, s.fault = some c ∧ f = .alreadyFaulted c := by
  unfold blocked at h
  split at h
  · split at h <;> cases h
    exact ⟨_, ‹_›, rfl⟩
  · split at h <;> cases h

/-- A step that ends in the wait-state fault took the first item, which nothing blocked, and its operation faulted. -/
theorem step_fault {s t : State} {c : WaitCause} (h : step s = .fault (.unsupportedWaitState c t)) :
    ∃ x rest i, s.inputs = x :: rest ∧ blocked s x = none ∧ decode s.cfg.machine x = .ok i ∧
      exec i (s.accept rest) = .fault (.unsupportedWaitState c t) := by
  unfold step at h
  split at h
  · cases h
  · rename_i x rest hin
    split at h
    · subst h
      obtain ⟨_, -, hf⟩ := blocked_fault ‹_›
      cases hf
    · split at h
      · cases h
      · exact ⟨x, rest, _, hin, ‹_›, ‹_›, h⟩

/-! #### No operation writes ROM -/

/-- What every byte write through a table keeps, a write of either width keeps (20_memory R46). -/
theorem memWrite_keeps {P : State → Prop} {tb : List Entry}
    (hP : ∀ a v u u', memWriteByte tb a v u = some u' → P u → P u')
    {a : Nat} {d : BusData} {s t : State} (h : memWrite tb a d s = some t) (hs : P s) : P t := by
  cases d with
  | byte v => exact hP _ _ _ _ h hs
  | word v =>
    simp only [memWrite, memWriteWord] at h
    split at h
    · cases h
    · rename_i u hu
      exact hP _ _ _ _ h (hP _ _ _ _ hu hs)

theorem memWriteByte_rom {tb : List Entry} {a : Nat} {v : Byte} {s t : State} (h : memWriteByte tb a v s = some t) :
    t.rom = s.rom := by
  rcases memWriteByte_some h with rfl | ⟨ref, i, -, rfl⟩ | ⟨c, r, rfl⟩
  · rfl
  · exact writeRegion_rom s ref i v
  · rfl

theorem memWrite_rom {tb : List Entry} {a : Nat} {d : BusData} {s t : State} (h : memWrite tb a d s = some t) :
    t.rom = s.rom :=
  memWrite_keeps (P := fun u => u.rom = s.rom) (fun _ _ _ _ hw hu => (memWriteByte_rom hw).trans hu) h rfl

/-- An operation that completes leaves the known bytes of ROM alone (10_state R19). -/
theorem exec_next_rom {i : Instr} {s t : State} (h : exec i s = .next t) : t.rom = s.rom := by
  rcases exec_next_cases h with hm | hm | ⟨_, _, k, -, -, rfl⟩ | ⟨_, _, -, hw⟩ | ⟨p, -, rfl⟩ | ⟨-, rfl⟩
  · exact hm.rom
  · exact hm.rom
  · rfl
  · exact memWrite_rom hw
  · rfl
  · rfl

/-- The state a fault keeps has the known bytes of ROM as they were (60 R127, 10_state R19). -/
theorem exec_fault_rom {i : Instr} {s t : State} {c : WaitCause}
    (h : exec i s = .fault (.unsupportedWaitState c t)) : t.rom = s.rom := by
  obtain ⟨-, -, c', u, hreq, hf⟩ := exec_fault_cases h
  cases hf
  cases hreq <;> rfl

theorem romByte_congr {s t : State} (h : t.rom = s.rom) (i : Nat) : t.romByte i = s.romByte i := by
  rw [State.romByte, State.romByte, h]

/-- Settles O41: a step runs one operation on the accepted state, which has the same ROM; neither an operation that
completes nor one that faults changes it. -/
theorem romNeverChanges : Obligations.RomNeverChanges := by
  rintro s t (h | ⟨c, h⟩) i
  · obtain ⟨x, rest, op, -, -, -, hx⟩ := step_next h
    exact romByte_congr ((exec_next_rom hx).trans (accept_rom s rest)) i
  · obtain ⟨x, rest, op, -, -, -, hx⟩ := step_fault h
    exact romByte_congr ((exec_fault_rom hx).trans (accept_rom s rest)) i

end Sys2Proof.Machine

/-! ### Rebinding, the bank-switched accesses and the generic byte accesses (20_memory) -/

namespace Sys2Proof.Machine

/-! #### Lookup in a rebound table (R51) -/

theorem lookup_append (t u : List Entry) (a : Nat) : lookup (t ++ u) a = (lookup t a).or (lookup u a) :=
  List.find?_append

theorem lookup_eq_none_iff {t : List Entry} {a : Nat} :
    lookup t a = none ↔ ∀ e ∈ t, e.start ≤ a → e.stop < a := by
  simp [lookup, Entry.covers]

/-- Cutting the entries of a table one by one keeps what an address is looked up to, if each cut keeps it. -/
theorem lookup_filterMap {β : Type} {cut : Entry → Option Entry} {a : Nat} {val : Entry → β}
    (hcut : ∀ e, (lookup (cut e).toList a).map val = (lookup [e] a).map val) (t : List Entry) :
    (lookup (t.filterMap cut) a).map val = (lookup t a).map val := by
  induction t with
  | nil => rfl
  | cons e rest ih =>
    have hhead : (e :: rest).filterMap cut = (cut e).toList ++ rest.filterMap cut := by
      cases h : cut e <;> simp [h]
    calc (lookup ((e :: rest).filterMap cut) a).map val
        = ((lookup (cut e).toList a).map val).or ((lookup (rest.filterMap cut) a).map val) := by
          rw [hhead, lookup_append, Option.map_or]
      _ = ((lookup [e] a).map val).or ((lookup rest a).map val) := by rw [hcut, ih]
      _ = (lookup (e :: rest) a).map val := by rw [← Option.map_or, ← lookup_append, List.singleton_append]

theorem lookup_below {lo a : Nat} (h : a < lo) (t : List Entry) :
    (lookup (t.filterMap (Entry.below lo)) a).map (fun e => (e.base, e.target)) =
      (lookup t a).map fun e => (e.base, e.target) := by
  refine lookup_filterMap (fun e => ?_) t
  unfold Entry.below
  split
  · rfl
  · split
    · by_cases hs : e.start ≤ a
      · simp [lookup_cons, hs, show a ≤ lo - 1 by omega, show a ≤ e.stop by omega]
      · simp [lookup_cons, hs]
    · simp [lookup, Entry.covers, show a < e.start by omega]

theorem lookup_above {hi a : Nat} (h : hi < a) (t : List Entry) :
    (lookup (t.filterMap (Entry.above hi)) a).map (fun e => (e.base, e.target)) =
      (lookup t a).map fun e => (e.base, e.target) := by
  refine lookup_filterMap (fun e => ?_) t
  unfold Entry.above
  split
  · rfl
  · split
    · by_cases hs : a ≤ e.stop
      · simp [lookup_cons, hs, show hi + 1 ≤ a by omega, show e.start ≤ a by omega]
      · simp [lookup_cons, hs]
    · simp [lookup, Entry.covers, show e.stop < a by omega]

theorem lookup_below_eq_none {lo a : Nat} (h : lo ≤ a) (t : List Entry) :
    lookup (t.filterMap (Entry.below lo)) a = none := by
  refine lookup_eq_none_iff.2 fun e he _ => ?_
  obtain ⟨e', -, he⟩ := List.mem_filterMap.1 he
  unfold Entry.below at he
  split at he
  · cases he; omega
  · split at he <;> cases he
    simp only
    omega

theorem lookup_above_eq_none {hi a : Nat} (h : a ≤ hi) (t : List Entry) :
    lookup (t.filterMap (Entry.above hi)) a = none := by
  refine lookup_eq_none_iff.2 fun e he hs => ?_
  obtain ⟨e', -, he⟩ := List.mem_filterMap.1 he
  unfold Entry.above at he
  split at he
  · cases he; omega
  · split at he <;> cases he
    simp only at hs
    omega

/-- Settles O17: of the three parts of the new table only the one on the address's side of the range has an entry for it,
and that part looks it up as the old table does. -/
theorem rebindingARangeLeavesTheRestAlone : Obligations.RebindingARangeLeavesTheRestAlone := by
  intro t new lo hi a hlh ha hnew
  have hmid : lookup new a = none := lookup_eq_none_iff.2 fun e he hs => by
    have := hnew e he
    omega
  simp only [rebindRange, lookup_append, hmid, Option.or_none]
  rcases ha with ha | ha
  · rw [lookup_above_eq_none (by omega), Option.or_none]
    exact lookup_below ha t
  · rw [lookup_below_eq_none (by omega), Option.none_or]
    exact lookup_above ha t

/-! #### Window accesses and the physical byte (R55) -/

theorem inHighWindow_iff (a : Addr16) : inHighWindow a = true ↔ 0xF800 ≤ a.toNat := by
  have := a.isLt
  simp only [inHighWindow, beq_iff_eq, ← BitVec.toNat_inj, BitVec.extractLsb'_toNat, Nat.shiftRight_eq_div_pow,
    BitVec.toNat_ofNat]
  omega

/-- The byte a memory read returns: that of the window the address lies in (40 R71, R72). -/
def windowByte (s : State) (a : Addr16) : Byte := if inHighWindow a then readHigh s a else readLow s a

theorem windowByte_high {s : State} {a : Addr16} (h : 0xF800 ≤ a.toNat) : windowByte s a = readHigh s a :=
  if_pos ((inHighWindow_iff a).2 h)

theorem windowByte_low {s : State} {a : Addr16} (h : a.toNat < 0xF800) : windowByte s a = readLow s a :=
  if_neg fun hw => Nat.not_le.2 h ((inHighWindow_iff a).1 hw)

theorem exec_decodeReadWindow {s : State} (hm : s.cfg.machine = .xor100) (a : Addr16) :
    exec (decodeReadWindow a) s = .next (s.answer (.byte (windowByte s a))) := by
  unfold decodeReadWindow windowByte
  split
  · exact exec_rdHi s a hm
  · exact exec_rdLo s a hm

/-- A read window or the write window bound to RAM has the selected bank, which exists (41 R75). -/
theorem ram_binding_inRange {s : State} (hc : s.Coherent) {q : BitVec 3}
    (h : s.win.rh = .ram q ∨ s.win.rl = .ram q ∨ s.win.w = .ram q) :
    q = s.selector ∧ q.toNat < s.cfg.bankCount.val := by
  rw [hc, bind_rh, bind_rl, bind_w] at h
  by_cases hr : s.selector.toNat < s.cfg.bankCount.val
  · suffices s.selector = q from ⟨this.symm, this ▸ hr⟩
    cases hmode : s.mode <;> simpa [hr, hmode] using h
  · cases hmode : s.mode <;> simp [hr, hmode] at h

theorem readHigh_eq_physByte {s : State} (hc : s.Coherent) {a : Addr16} (ha : 0xF800 ≤ a.toNat) :
    readHigh s a = s.physByte (physRead s.cfg s.mode s.selector a) := by
  have hlt := a.isLt
  have hrom : a.toNat % romSize = a.toNat - 0xF800 := by simp only [romSize]; omega
  have hrh : s.win.rh = _ := hc ▸ bind_rh s.cfg s.mode s.selector
  unfold readHigh
  rw [hrh]
  cases hmode : s.mode with
  | zero => simp [physRead, State.physByte, ha, romIndex_eq]
  | f800 => simp [physRead, State.physByte, ha, romIndex_eq, hrom]
  | off =>
    by_cases hr : s.selector.toNat < s.cfg.bankCount.val <;>
      simp [physRead, State.physByte, hr, physRam, bankSize]

theorem readLow_eq_physByte {s : State} (hc : s.Coherent) {a : Addr16} (ha : a.toNat < 0xF800) :
    readLow s a = s.physByte (physRead s.cfg s.mode s.selector a) := by
  have hna : ¬ 0xF800 ≤ a.toNat := by omega
  have hrl : s.win.rl = _ := hc ▸ bind_rl s.cfg s.mode s.selector
  unfold readLow
  rw [hrl]
  cases hmode : s.mode with
  | zero =>
    by_cases hz : s.cfg.zeroLowMirror || decide (a.toNat ≤ 0x07FF)
    · simp [physRead, State.physByte, hz, romIndex_eq]
    · simp [physRead, State.physByte, hz, hna]
  | f800 | off =>
    by_cases hr : s.selector.toNat < s.cfg.bankCount.val <;>
      simp [physRead, State.physByte, hr, hna, physRam, bankSize]

/-- With the bindings up to date a read returns the physical byte. -/
theorem windowByte_eq_physByte {s : State} (hc : s.Coherent) (a : Addr16) :
    windowByte s a = s.physByte (physRead s.cfg s.mode s.selector a) := by
  by_cases ha : 0xF800 ≤ a.toNat
  · rw [windowByte_high ha, readHigh_eq_physByte hc ha]
  · rw [windowByte_low (by omega), readLow_eq_physByte hc (by omega)]

/-- With the bindings up to date a read completes with the physical byte and changes nothing else. -/
theorem exec_decodeReadWindow_phys {s : State} (hm : s.cfg.machine = .xor100) (hc : s.Coherent) (a : Addr16) :
    exec (decodeReadWindow a) s = .next (s.answer (.byte (s.physByte (physRead s.cfg s.mode s.selector a)))) := by
  rw [exec_decodeReadWindow hm, windowByte_eq_physByte hc]

/-- With the bindings up to date a write stores at the physical RAM byte, or changes nothing where there is none. -/
theorem exec_wrWin_phys {s : State} (hm : s.cfg.machine = .xor100) (hc : s.Coherent) (a : Addr16) (v : Byte) :
    (∃ k, physWrite s.cfg s.selector a = .ram k ∧ exec (.wrWin a v) s = .next (s.writeRam k v)) ∨
      (physWrite s.cfg s.selector a = .none ∧ exec (.wrWin a v) s = .next s) := by
  have hw : s.win.w = _ := hc ▸ bind_w s.cfg s.mode s.selector
  rw [exec_wrWin s a v hm]
  unfold writeTarget physWrite
  rw [hw]
  by_cases ha : a.toNat ≤ s.cfg.writeWindowEnd.addr <;> by_cases hr : s.selector.toNat < s.cfg.bankCount.val <;>
    simp [ha, hr, physRam, bankSize]

theorem bank_byte_lt {cfg : Config} {q : BitVec 3} (a : Addr16) (h : q.toNat < cfg.bankCount.val) :
    q.toNat * 0x10000 + a.toNat < cfg.bankCount.val * 0x10000 := by
  have := a.isLt
  omega

theorem physRead_ram_lt {cfg : Config} {m : Mode} {q : BitVec 3} {a : Addr16} {k : Nat}
    (h : physRead cfg m q a = .ram k) : k < cfg.bankCount.val * 0x10000 := by
  cases m with
  | zero =>
    simp only [physRead] at h
    split at h <;> cases h
  | f800 =>
    simp only [physRead] at h
    split at h
    · cases h
    · split at h <;> cases h
      exact bank_byte_lt a ‹_›
  | off =>
    simp only [physRead] at h
    split at h <;> cases h
    exact bank_byte_lt a ‹_›

theorem physRead_rom_lt {cfg : Config} {m : Mode} {q : BitVec 3} {a : Addr16} {k : Nat}
    (h : physRead cfg m q a = .rom k) : k < 0x800 := by
  have := a.isLt
  cases m with
  | zero =>
    simp only [physRead] at h
    split at h
    · rw [← Phys.rom.inj h]
      exact Nat.mod_lt _ (by decide)
    · cases h
  | f800 =>
    simp only [physRead] at h
    split at h
    · rw [← Phys.rom.inj h]
      omega
    · split at h <;> cases h
  | off =>
    simp only [physRead] at h
    split at h <;> cases h

theorem physWrite_ram_lt {cfg : Config} {q : BitVec 3} {a : Addr16} {k : Nat}
    (h : physWrite cfg q a = .ram k) : k < cfg.bankCount.val * 0x10000 := by
  unfold physWrite at h
  split at h <;> cases h
  exact bank_byte_lt a ‹_ ∧ _›.2

/-- Settles O21: the two accesses by their physical byte, and the bounds of `physRead` and `physWrite`. -/
theorem accessesReachThePhysicalByte : Obligations.AccessesReachThePhysicalByte := by
  intro s a v hm hc
  have hwrite := exec_wrWin_phys hm hc a v
  refine ⟨exec_decodeReadWindow_phys hm hc a, fun k hk => ?_, fun hn => ?_,
    fun k hk => hk.elim physRead_ram_lt physWrite_ram_lt, fun k => physRead_rom_lt, fun k hk => ?_⟩
  · simpa [hk] using hwrite
  · simpa [hn] using hwrite
  · simp [hk] at hwrite

/-- An operation that changes the mode or the selector, or loads or draws them, ends with the rebind (41 R76). -/
theorem coherent_of_rebinding {i : Instr} {s t : State} (h : exec i s = .next t)
    (hi : i ∈ [Instr.inEpromF800, .evReset, .evPoweron] ∨ (∃ v, i = .outBanksel v ∨ i = .outEpromToggle v) ∨
      ∃ p, i = .evRestore p) : t.Coherent := by
  simp only [List.mem_cons, List.not_mem_nil, or_false] at hi
  rcases hi with (rfl | rfl | rfl) | ⟨v, rfl | rfl⟩ | ⟨p, rfl⟩
  · simp only [exec] at h; cases (onXor100_next h).2; rfl
  · cases h; rfl
  · cases h; rfl
  · simp only [exec] at h; cases (onXor100_next h).2; rfl
  · simp only [exec] at h; cases (onXor100_next h).2; rfl
  · cases h; rfl

/-- Settles O15: after the rebind the bindings are up to date, so the next access reaches the physical byte of the new mode
and selector. -/
theorem nextAccessSeesTheNewBindings : Obligations.NextAccessSeesTheNewBindings := by
  intro i s t a v hm h hi
  have hc : t.Coherent := coherent_of_rebinding h hi
  obtain ⟨hread, hram, hnone, -, -, hrom⟩ := accessesReachThePhysicalByte t a v hm hc
  refine ⟨hread, hram, fun hno => hnone ?_⟩
  cases hp : physWrite t.cfg t.selector a with
  | rom k => exact absurd hp (hrom k)
  | ram k => exact absurd hp (hno k)
  | none => rfl

/-- A RAM store changes the one physical byte it addresses (R56(b)). -/
theorem physByte_writeRam (s : State) (k : Nat) (v : Byte) (x : Phys) :
    (s.writeRam k v).physByte x = if x = .ram k then v else s.physByte x := by
  cases x with
  | rom i => simp [State.physByte]
  | ram i => simp [State.physByte, ramByte_writeRam, eq_comm]
  | none => simp [State.physByte]

/-- Settles O22: a write is a RAM store at its physical byte or nothing, and either keeps the bindings up to date, so the
later read returns its own physical byte. -/
theorem readAfterWriteByAnyName : Obligations.ReadAfterWriteByAnyName := by
  intro s a b v hm hc
  rcases exec_wrWin_phys hm hc a v with ⟨k, hp, hx⟩ | ⟨hp, hx⟩
  · refine ⟨_, hx, rfl, fun x _ => by rw [physByte_writeRam, hp], fun hb _ => ?_⟩
    refine ⟨_, exec_decodeReadWindow_phys (s := s.writeRam k v) hm hc b, ?_⟩
    rw [writeRam_cfg, writeRam_mode, writeRam_selector, hb, hp, physByte_writeRam, if_pos rfl]
    rfl
  · refine ⟨_, hx, rfl, fun x hne => by rw [hp, if_neg hne], fun hb hne => ?_⟩
    exact absurd (hb.trans hp) hne

/-! #### The same accesses through the tables (R40, R41, R52) -/

theorem directIndex_full {base offset a : Nat} (h : a - base < 0x10000) :
    directIndex base offset 0xFFFF a = offset + (a - base) := by
  rw [directIndex, show 0xFFFF = 2 ^ 16 - 1 from rfl, Nat.and_two_pow_sub_one_of_lt_two_pow h]

theorem directIndex_mirror (a : Addr16) : directIndex 0 0 0x07FF a.toNat = romIndex a := by
  rw [directIndex, show 0x07FF = 2 ^ 11 - 1 from rfl, Nat.and_two_pow_sub_one_eq_mod, romIndex_eq]
  simp [romSize]

theorem romIndex_lt (a : Addr16) : romIndex a < romSize := by
  rw [romIndex_eq]
  exact Nat.mod_lt _ (by decide)

/-- The index `target(Ram(q))` gives an address, counted from the start of any of the windows (R52). -/
theorem directIndex_ramTarget {start : Nat} {a : Addr16} (q : BitVec 3) (h : start ≤ a.toNat) :
    directIndex start (q.toNat * bankSize + start) 0xFFFF a.toNat = physRam q a := by
  have := a.isLt
  rw [directIndex_full (by omega), physRam]
  omega

section entry
variable {t : List Entry} {s : State} {a : Addr16} {start stop : Nat}

/-- A read through a `Ram` entry whose bank exists. -/
theorem memReadByte_ramTarget {q : BitVec 3} (hq : q.toNat < s.cfg.bankCount.val) (h : start ≤ a.toNat)
    (hl : lookup t a.toNat = some (.span start stop (ramTarget q start))) :
    memReadByte t a.toNat s = some (s.ramByte (physRam q a), s) := by
  have hi : directIndex start (q.toNat * bankSize + start) 0xFFFF a.toNat = physRam q a := directIndex_ramTarget q h
  have hlt := physRam_lt s.cfg q a hq
  rw [← hi] at hlt ⊢
  exact memReadByte_direct hl rfl hlt

/-- A write through a `Ram` entry whose bank exists. -/
theorem memWriteByte_ramTarget {q : BitVec 3} (v : Byte) (hq : q.toNat < s.cfg.bankCount.val) (h : start ≤ a.toNat)
    (hl : lookup t a.toNat = some (.span start stop (ramTarget q start))) :
    memWriteByte t a.toNat v s = some (s.writeRam (physRam q a) v) := by
  have hi : directIndex start (q.toNat * bankSize + start) 0xFFFF a.toNat = physRam q a := directIndex_ramTarget q h
  have hlt := physRam_lt s.cfg q a hq
  rw [← hi] at hlt ⊢
  exact memWriteByte_direct hl v rfl hlt

/-- A read through a `Rom` entry whose mask gives the index of the bank switch (41 R82(e)). -/
theorem memReadByte_romTarget {amask : Nat} (hi : directIndex start 0 amask a.toNat = romIndex a)
    (hl : lookup t a.toNat = some (.span start stop (.direct .rom 0 amask))) :
    memReadByte t a.toNat s = some (s.romByte (romIndex a), s) := by
  have hlt := romIndex_lt a
  rw [← hi] at hlt ⊢
  exact memReadByte_direct hl rfl hlt

end entry

/-- The entries of the low read window give no address of the high one. -/
theorem lookup_lowEntries_high {cfg : Config} (rl : RLBinding) {a : Nat} (h : 0xF800 ≤ a) :
    lookup (lowEntries cfg rl) a = none := by
  have h1 : 0xF7FF < a := by omega
  cases rl with
  | romMirror =>
    cases hz : cfg.zeroLowMirror
    · simp [lowEntries, hz, lookup_eq_none_iff, Entry.span, h1, show 0x07FF < a by omega]
    · simp [lowEntries, hz, lookup_eq_none_iff, Entry.span, h1]
  | ram q => simp [lowEntries, lookup_eq_none_iff, Entry.span, h1]
  | detached => simp [lowEntries, lookup_eq_none_iff, Entry.span, h1]

theorem memReadByte_readTable_high {s : State} (hc : s.Coherent) {a : Addr16} (ha : 0xF800 ≤ a.toNat) :
    memReadByte (xor100ReadTable s.cfg s.win) a.toNat s = some (readHigh s a, s) := by
  have hlt := a.isLt
  have hl : lookup (xor100ReadTable s.cfg s.win) a.toNat = (highEntries s.cfg s.win.rh).head? := by
    rw [xor100ReadTable, lookup_append, lookup_lowEntries_high _ ha, Option.none_or, highEntries.eq_def, lookup_cons,
      if_pos ⟨ha, show a.toNat ≤ 0xFFFF by omega⟩, List.head?_cons]
  unfold readHigh
  cases hrh : s.win.rh with
  | rom =>
    refine memReadByte_romTarget ?_ (hrh ▸ hl)
    rw [directIndex_full (by omega), romIndex_eq]
    simp only [romSize]
    omega
  | ram q => exact memReadByte_ramTarget (ram_binding_inRange hc (.inl hrh)).2 ha (hrh ▸ hl)
  | detached => exact memReadByte_unmapped (hrh ▸ hl) rfl

theorem memReadByte_readTable_low {s : State} (hc : s.Coherent) {a : Addr16} (ha : a.toNat < 0xF800) :
    memReadByte (xor100ReadTable s.cfg s.win) a.toNat s = some (readLow s a, s) := by
  have hl {e : Entry} (h : lookup (lowEntries s.cfg s.win.rl) a.toNat = some e) :
      lookup (xor100ReadTable s.cfg s.win) a.toNat = some e := by
    rw [xor100ReadTable, lookup_append, h, Option.some_or]
  have hle : a.toNat ≤ 0xF7FF := by omega
  unfold readLow
  cases hrl : s.win.rl with
  | romMirror =>
    cases hz : s.cfg.zeroLowMirror with
    | true =>
      exact memReadByte_romTarget (start := 0) (stop := 0xF7FF) (directIndex_mirror a)
        (hl (by simp [hrl, lowEntries, hz, lookup_cons, Entry.span, hle]))
    | false =>
      by_cases hrom : a.toNat ≤ 0x07FF
      · simp only [hrom, decide_true, Bool.or_true, if_true]
        refine memReadByte_romTarget (start := 0) (stop := 0x07FF) (amask := 0xFFFF) ?_
          (hl (by simp [hrl, lowEntries, hz, lookup_cons, Entry.span, hrom]))
        rw [directIndex_full (by omega), romIndex_eq]
        simp only [romSize]
        omega
      · simp only [hrom, decide_false, Bool.or_false, Bool.false_eq_true, if_false]
        exact memReadByte_unmapped (e := .span 0x0800 0xF7FF (.unmapped s.cfg.idleMem))
          (hl (by simp [hrl, lowEntries, hz, lookup_cons, Entry.span, hrom, hle, show 0x0800 ≤ a.toNat by omega])) rfl
  | ram q =>
    exact memReadByte_ramTarget (start := 0) (stop := 0xF7FF) (ram_binding_inRange hc (.inr (.inl hrl))).2 (Nat.zero_le _)
      (hl (by simp [hrl, lowEntries, lookup_cons, Entry.span, hle]))
  | detached =>
    exact memReadByte_unmapped (e := .span 0 0xF7FF (.unmapped s.cfg.idleMem))
      (hl (by simp [hrl, lowEntries, lookup_cons, Entry.span, hle])) rfl

theorem memReadByte_readTable {s : State} (hc : s.Coherent) (a : Addr16) :
    memReadByte (xor100ReadTable s.cfg s.win) a.toNat s = some (windowByte s a, s) := by
  by_cases ha : 0xF800 ≤ a.toNat
  · rw [windowByte_high ha, memReadByte_readTable_high hc ha]
  · rw [windowByte_low (by omega), memReadByte_readTable_low hc (by omega)]

/-- Above the end of the write window the write table has an unmapped entry (R52). -/
theorem lookup_writeTable_above {cfg : Config} (win : Windows) {a : Addr16} (h : cfg.writeWindowEnd.addr < a.toNat) :
    lookup (xor100WriteTable cfg win) a.toNat = some (.span 0xF800 0xFFFF (.unmapped cfg.idleMem)) := by
  have hlt := a.isLt
  rw [xor100WriteTable, writeEntries.eq_def, List.singleton_append, lookup_cons, if_neg fun hc => Nat.not_le.2 h hc.2]
  cases he : cfg.writeWindowEnd with
  | atFFFF => simp only [he, WriteWindowEnd.addr] at h; omega
  | atF7FF =>
    simp only [he, WriteWindowEnd.addr] at h
    rw [lookup_cons, if_pos ⟨h, show a.toNat ≤ 0xFFFF by omega⟩]

/-- A write through the write table stores at the write window's target, or changes nothing where there is none. -/
theorem memWriteByte_writeTable {s : State} (hc : s.Coherent) (a : Addr16) (v : Byte) :
    memWriteByte (xor100WriteTable s.cfg s.win) a.toNat v s =
      some ((writeTarget s a).elim s (s.writeRam · v)) := by
  unfold writeTarget
  by_cases ha : a.toNat ≤ s.cfg.writeWindowEnd.addr
  · have hl : lookup (xor100WriteTable s.cfg s.win) a.toNat = (writeEntries s.cfg s.win.w).head? := by
      rw [xor100WriteTable, writeEntries.eq_def, List.singleton_append, lookup_cons,
        if_pos ⟨Nat.zero_le _, ha⟩, List.head?_cons]
    rw [if_pos ha]
    cases hw : s.win.w with
    | ram q =>
      exact memWriteByte_ramTarget v (ram_binding_inRange hc (.inr (.inr hw))).2 (Nat.zero_le _) (hw ▸ hl)
    | detached => exact memWriteByte_unmapped (hw ▸ hl) v rfl
  · rw [if_neg ha]
    exact memWriteByte_unmapped (lookup_writeTable_above s.win (by omega)) v rfl

theorem exec_wrWin_elim {s : State} (hm : s.cfg.machine = .xor100) (a : Addr16) (v : Byte) :
    exec (.wrWin a v) s = .next ((writeTarget s a).elim s (s.writeRam · v)) := by
  rw [exec_wrWin s a v hm]
  cases writeTarget s a <;> rfl

/-- Settles O23: both sides of a read are the byte of the window, and both sides of a write the store at `writeTarget`. -/
theorem windowAccessesAgreeWithTheDispatchTables : Obligations.WindowAccessesAgreeWithTheDispatchTables := by
  intro s a v hm hc
  have ht : s.tables = ⟨xor100ReadTable s.cfg s.win, xor100WriteTable s.cfg s.win⟩ := by simp only [State.tables, hm]
  rw [ht]
  exact ⟨⟨_, memReadByte_readTable hc a, exec_decodeReadWindow hm a⟩,
    _, memWriteByte_writeTable hc a v, exec_wrWin_elim hm a v⟩

/-! #### What leaves every byte alone -/

/-- What a byte reads as depends on the known bytes and on the power-on that drew the others. -/
theorem sameBytes_of_eq {s t : State} (hrom : t.rom = s.rom) (hram : t.ram = s.ram) (hera : t.ramEra = s.ramEra)
    (hreg : t.regions = s.regions) : SameBytes s t :=
  ⟨fun i => romByte_congr hrom i, fun i => by simp only [State.ramByte, hram, hera],
    fun k i => by simp only [State.otherByte, hreg, hera]⟩

/-- Settles O43: of the shapes an operation's next state can have, only the two stores and the power-on touch the bytes. -/
theorem onlyMemoryWritesChangeMemory : Obligations.OnlyMemoryWritesChangeMemory := by
  intro i s t h hmw hpo
  rcases exec_next_cases h with hm | hm | ⟨a, v, k, rfl, -, -⟩ | ⟨a, d, rfl, -⟩ | ⟨p, -, rfl⟩ | ⟨rfl, -⟩
  · exact sameBytes_of_eq hm.rom hm.ram hm.ramEra hm.regions
  · exact sameBytes_of_eq hm.rom hm.ram hm.ramEra hm.regions
  · exact absurd rfl hmw
  · exact absurd rfl hmw
  · exact sameBytes_of_eq rfl rfl rfl rfl
  · exact absurd rfl hpo

/-! #### Generic byte accesses (R40, R41, R44, R45) -/

theorem exec_rdGen_byte {s t : State} {a : Addr24} {b : Byte} (hm : s.cfg.machine = .tr175)
    (h : memReadByte s.cfg.tr175Table.read a.toNat s = some (b, t)) :
    exec (.rdGen a .byte) s = .next (t.answer (.byte b)) := by
  simp [exec_rdGen s a .byte hm, aligned, memRead, h]

theorem exec_wrGen_byte {s t : State} {a : Addr24} {v : Byte} (hm : s.cfg.machine = .tr175)
    (h : memWriteByte s.cfg.tr175Table.write a.toNat v s = some t) :
    exec (.wrGen a (.byte v)) s = .next t := by
  simp [exec_wrGen s a (.byte v) hm, aligned, BusData.width, memWrite, h]

/-- The lane of a byte address: the high one at even addresses where the even byte is the high one, at odd ones else (R45). -/
theorem laneOf_eq_hi_iff (cfg : Config) (a : Nat) :
    laneOf cfg a = .hi ↔ decide (a % 2 = 0) = cfg.bus16BigEndian := by
  rcases Nat.mod_two_eq_zero_or_one a with h | h <;> cases hb : cfg.bus16BigEndian <;> simp [laneOf, h, hb]

theorem laneOf_eq_lo_iff (cfg : Config) (a : Nat) :
    laneOf cfg a = .lo ↔ decide (a % 2 = 0) ≠ cfg.bus16BigEndian := by
  rw [Ne, ← laneOf_eq_hi_iff]
  cases laneOf cfg a <;> simp

theorem lanesAnswer_iff (cfg : Config) (lanes : Lanes) (a : Nat) :
    lanesAnswer cfg lanes a = true ↔ lanes = .all ∨ lanes = .both ∨
      (lanes = .hi ∧ decide (a % 2 = 0) = cfg.bus16BigEndian) ∨
      (lanes = .lo ∧ decide (a % 2 = 0) ≠ cfg.bus16BigEndian) := by
  rw [← laneOf_eq_hi_iff, ← laneOf_eq_lo_iff]
  cases lanes <;> simp [lanesAnswer]

theorem handlerReg_eq (lanes : Lanes) (base a : Nat) :
    handlerReg lanes base a = if lanes = .hi ∨ lanes = .lo then (a - base) / 2 else a - base := by
  cases lanes <;> simp [handlerReg]

/-- Settles O54: one clause for each kind of target, by what a byte read through such an entry returns. -/
theorem genericByteReadFollowsTheTable : Obligations.GenericByteReadFollowsTheTable := by
  intro s a e hm hl
  refine ⟨fun ref offset amask ht hi => exec_rdGen_byte hm (memReadByte_direct hl ht hi),
    fun idle ht => exec_rdGen_byte hm (memReadByte_unmapped hl ht), fun h lanes idle ht => ?_⟩
  have hread := memReadByte_handler (s := s) hl ht
  simp only [← lanesAnswer_iff, ← handlerReg_eq]
  constructor
  · rintro ⟨hlane, hr⟩
    rw [handlerRead, if_pos (by simp [hlane, hr])] at hread
    exact exec_rdGen_byte hm hread
  · intro hno
    rw [handlerRead, if_neg (by simpa using hno)] at hread
    exact exec_rdGen_byte hm hread

/-- A store into a region changes the bytes of RAM and of the generic regions, and nothing else of the state (R41, R43). -/
theorem writeRegion_frame (s : State) (ref : RegionRef) (i : Nat) (v : Byte) :
    s.writeRegion ref i v =
      { s with ram := (s.writeRegion ref i v).ram, regions := (s.writeRegion ref i v).regions } := by
  cases ref <;> rfl

/-- Settles O55: one clause for each kind of target, by what a byte write through such an entry does. -/
theorem genericByteWriteFollowsTheTable : Obligations.GenericByteWriteFollowsTheTable := by
  intro s a v e hm hl
  refine ⟨fun ref offset amask ht hi => ?_, fun idle ht => exec_wrGen_byte hm (memWriteByte_unmapped hl v ht),
    fun h lanes idle ht => ?_⟩
  · exact ⟨_, exec_wrGen_byte hm (memWriteByte_direct hl v ht hi), writeRegion_frame s ref _ v,
      fun ref' i => regionByte_writeRegion s ref ref' _ i v⟩
  · have hwrite := memWriteByte_handler (s := s) hl v ht
    simp only [← lanesAnswer_iff, ← handlerReg_eq]
    constructor
    · rintro ⟨hlane, hw⟩
      rw [handlerWrite, if_pos (by simp [hlane, hw])] at hwrite
      exact exec_wrGen_byte hm hwrite
    · intro hno
      rw [handlerWrite, if_neg (by simpa using hno)] at hwrite
      exact exec_wrGen_byte hm hwrite

end Sys2Proof.Machine

/-! ### Decoding and encoding (30_encoding R60 to R68) -/

namespace Sys2Proof

open Machine

/-! #### Ports (R62, R63, 45 R124) -/

@[simp] theorem portOf_toNat (p : Byte) : portOf p.toNat = p := by
  simp [portOf]

theorem portOf_mod (p : Nat) : portOf (p % 256) = portOf p :=
  BitVec.eq_of_toNat_eq (by simp [portOf])

theorem decodeIn_eq (p : Byte) : decodeIn p = ((ioRowOf p).bind (·.input)).elim (.inUnmapped p) (· p) := by
  unfold decodeIn
  cases ioRowOf p with
  | none => rfl
  | some row => cases h : row.input <;> simp [h]

theorem decodeOut_eq (p v : Byte) :
    decodeOut p v = ((ioRowOf p).bind (·.output)).elim (.outUnmapped p v) (· p v) := by
  unfold decodeOut
  cases ioRowOf p with
  | none => rfl
  | some row => cases h : row.output <;> simp [h]

/-- The ports for which the table of R63 gives no input operation are those 45 R124 lists. -/
theorem ioRowOf_input_isNone (p : Byte) : ((ioRowOf p).bind (·.input)).isNone = unmappedIn p := by
  revert p; decide

/-- The ports for which the table of R63 gives no output operation are those 45 R124 lists. -/
theorem ioRowOf_output_isNone (p : Byte) : ((ioRowOf p).bind (·.output)).isNone = unmappedOut p := by
  revert p; decide

theorem decodeIn_of_unmapped {p : Byte} (h : unmappedIn p = true) : decodeIn p = .inUnmapped p := by
  rw [← ioRowOf_input_isNone, Option.isNone_iff_eq_none] at h
  rw [decodeIn_eq, h, Option.elim_none]

theorem decodeOut_of_unmapped {p : Byte} (v : Byte) (h : unmappedOut p = true) : decodeOut p v = .outUnmapped p v := by
  rw [← ioRowOf_output_isNone, Option.isNone_iff_eq_none] at h
  rw [decodeOut_eq, h, Option.elim_none]

/-- An operation that is well formed and exists on xor100. -/
def Instr.LegalOnXor100 (i : Instr) : Prop := WellFormed i = true ∧ i.existsOn .xor100 = true

/-- Every operation the table of R63 lists, at whatever port and with whatever data. -/
theorem ioTable_legalOnXor100 {row : IoRow} (hrow : row ∈ ioTable) :
    (∀ op, row.input = some op → ∀ p, (op p).LegalOnXor100) ∧
      ∀ op, row.output = some op → ∀ p v, (op p v).LegalOnXor100 := by
  simp only [ioTable, ioTableLow, ioTableHigh, List.mem_append, List.mem_cons, List.not_mem_nil, or_false] at hrow
  rcases hrow with (rfl | rfl | rfl | rfl | rfl | rfl | rfl | rfl) | (rfl | rfl | rfl | rfl | rfl | rfl | rfl | rfl) <;>
    exact ⟨fun _ h _ => by cases h <;> exact ⟨rfl, rfl⟩, fun _ h _ _ => by cases h <;> exact ⟨rfl, rfl⟩⟩

theorem ioRowOf_mem {p : Byte} {row : IoRow} (h : ioRowOf p = some row) : row ∈ ioTable :=
  List.mem_of_find?_eq_some h

theorem decodeIn_legalOnXor100 (p : Byte) : (decodeIn p).LegalOnXor100 := by
  cases h : (ioRowOf p).bind (·.input) with
  | none =>
    have hp : unmappedIn p = true := by rw [← ioRowOf_input_isNone, h]; rfl
    rw [decodeIn_of_unmapped hp]
    exact ⟨hp, rfl⟩
  | some op =>
    obtain ⟨row, hrow, hop⟩ := Option.bind_eq_some_iff.1 h
    rw [decodeIn_eq, h]
    exact (ioTable_legalOnXor100 (ioRowOf_mem hrow)).1 op hop p

theorem decodeOut_legalOnXor100 (p v : Byte) : (decodeOut p v).LegalOnXor100 := by
  cases h : (ioRowOf p).bind (·.output) with
  | none =>
    have hp : unmappedOut p = true := by rw [← ioRowOf_output_isNone, h]; rfl
    rw [decodeOut_of_unmapped v hp]
    exact ⟨hp, rfl⟩
  | some op =>
    obtain ⟨row, hrow, hop⟩ := Option.bind_eq_some_iff.1 h
    rw [decodeOut_eq, h]
    exact (ioTable_legalOnXor100 (ioRowOf_mem hrow)).2 op hop p v

/-- The four values of a channel or register field (R65). -/
theorem portField_cases (r : BitVec 2) : r = 0#2 ∨ r = 1#2 ∨ r = 2#2 ∨ r = 3#2 := by
  revert r; decide

theorem decodeIn_ctc (c : BitVec 2) : decodeIn (portWith 0x0C#8 c) = .inCtc c := by
  rcases portField_cases c with rfl | rfl | rfl | rfl <;> rfl

theorem decodeOut_ctc (c : BitVec 2) (v : Byte) : decodeOut (portWith 0x0C#8 c) v = .outCtc c v := by
  rcases portField_cases c with rfl | rfl | rfl | rfl <;> rfl

theorem decodeIn_fdc (r : BitVec 2) : decodeIn (portWith 0xF8#8 r) = .inFdc r := by
  rcases portField_cases r with rfl | rfl | rfl | rfl <;> rfl

theorem decodeOut_fdc (r : BitVec 2) (v : Byte) : decodeOut (portWith 0xF8#8 r) v = .outFdc r v := by
  rcases portField_cases r with rfl | rfl | rfl | rfl <;> rfl

theorem decode_ir (p : Nat) : decode .xor100 (.ir p) = .ok (decodeIn (portOf p)) := rfl

theorem decode_iw (p : Nat) (v : Byte) : decode .xor100 (.iw p v) = .ok (decodeOut (portOf p) v) := rfl

/-! #### Memory (R64, 20_memory R48, R49) -/

theorem decodeReadWindow_high {a : Addr16} (h : inHighWindow a = true) : decodeReadWindow a = .rdHi a := if_pos h

theorem decodeReadWindow_low {a : Addr16} (h : inHighWindow a = false) : decodeReadWindow a = .rdLo a :=
  if_neg (by simp [h])

theorem decodeReadWindow_legalOnXor100 (a : Addr16) : (decodeReadWindow a).LegalOnXor100 := by
  cases h : inHighWindow a with
  | true => rw [decodeReadWindow_high h]; exact ⟨h, rfl⟩
  | false => rw [decodeReadWindow_low h]; exact ⟨by simp [WellFormed, h], rfl⟩

theorem inHighWindow_ofNat {a : Nat} (h : a < 0x10000) : inHighWindow (BitVec.ofNat 16 a) = decide (0xF800 ≤ a) := by
  rw [Bool.eq_iff_iff, inHighWindow_iff, BitVec.toNat_ofNat, Nat.mod_eq_of_lt h, decide_eq_true_iff]

theorem decodeData_byte {d : Word16} (h : d.toNat < 256) : decodeData .byte d = .ok (.byte (d.setWidth 8)) := if_pos h

/-- A data byte stands in the low half of the 16 data bits of a write (R60). -/
theorem toNat_setWidth_lt (v : Byte) : (v.setWidth 16).toNat < 256 := by
  rw [BitVec.toNat_setWidth_of_le (by decide)]
  exact v.isLt

theorem decodeData_setWidth (v : Byte) : decodeData .byte (v.setWidth 16) = .ok (.byte v) := by
  rw [decodeData_byte (toNat_setWidth_lt v), BitVec.setWidth_setWidth_of_le v (by decide), BitVec.setWidth_eq]

theorem decode_mr_xor100 {a : Nat} (h : a < 0x10000) :
    decode .xor100 (.mr a 1) = .ok (decodeReadWindow (BitVec.ofNat 16 a)) := if_neg (Nat.not_le.2 h)

theorem decode_mw_xor100 {a : Nat} {d : Word16} (h : a < 0x10000) (hd : d.toNat < 256) :
    decode .xor100 (.mw a 1 d) = .ok (.wrWin (BitVec.ofNat 16 a) (d.setWidth 8)) := by
  refine (if_neg (Nat.not_le.2 h)).trans ?_
  simp only [decodeData_byte hd]

theorem decode_mw_xor100_byte {a : Nat} (v : Byte) (h : a < 0x10000) :
    decode .xor100 (.mw a 1 (v.setWidth 16)) = .ok (.wrWin (BitVec.ofNat 16 a) v) := by
  rw [decode_mw_xor100 h (toNat_setWidth_lt v), BitVec.setWidth_setWidth_of_le v (by decide), BitVec.setWidth_eq]

theorem decode_mr_tr175 {a n : Nat} {w : Width} (h : a < 0x1000000) (hn : decodeWidth .tr175 n = .ok w)
    (hal : aligned (BitVec.ofNat 24 a) w = true) :
    decode .tr175 (.mr a n) = .ok (.rdGen (BitVec.ofNat 24 a) w) := by
  refine (if_neg (Nat.not_le.2 h)).trans ?_
  simp only [hn, decodeGen, hal, if_true]

theorem decode_mw_tr175 {a n : Nat} {w : Width} {x : Word16} {d : BusData} (h : a < 0x1000000)
    (hn : decodeWidth .tr175 n = .ok w) (hd : decodeData w x = .ok d) (hal : aligned (BitVec.ofNat 24 a) w = true) :
    decode .tr175 (.mw a n x) = .ok (.wrGen (BitVec.ofNat 24 a) d) := by
  refine (if_neg (Nat.not_le.2 h)).trans ?_
  simp only [hn, hd, decodeGen, hal, if_true]

/-! #### Decoding what was encoded -/

theorem decodeEvent_legalOnXor100 (e : Event) : (decodeEvent e).LegalOnXor100 := by
  cases e <;> exact ⟨rfl, rfl⟩

theorem decode_encode_rdGen {a : Addr24} {n : Width} (h : aligned a n = true) :
    decode .tr175 (encode (.rdGen a n)) = .ok (.rdGen a n) := by
  have h' : aligned (BitVec.ofNat 24 a.toNat) n = true := by rwa [BitVec.ofNat_toNat, BitVec.setWidth_eq]
  cases n with
  | byte => simpa [encode] using decode_mr_tr175 a.isLt rfl h'
  | word => simpa [encode] using decode_mr_tr175 a.isLt rfl h'

theorem decode_encode_wrGen {a : Addr24} {d : BusData} (h : aligned a d.width = true) :
    decode .tr175 (encode (.wrGen a d)) = .ok (.wrGen a d) := by
  have h' : aligned (BitVec.ofNat 24 a.toNat) d.width = true := by rwa [BitVec.ofNat_toNat, BitVec.setWidth_eq]
  cases d with
  | byte v => simpa [encode] using decode_mw_tr175 a.isLt rfl (decodeData_setWidth v) h'
  | word v => simpa [encode] using decode_mw_tr175 (x := v) a.isLt rfl rfl h'

/-- Settles O49: on tr175 only the generic operations and the host's three events exist. On xor100 a memory address decodes
by its window, a port written out selects its row of R63, a field placed in a pattern is read back, and an unmapped port,
which has no row for the direction, decodes to itself. -/
theorem decodeOfEncodeIsTheOperation : Obligations.DecodeOfEncodeIsTheOperation := by
  intro i m hwf hm
  cases m with
  | tr175 =>
    cases i with
    | rdGen a n => exact decode_encode_rdGen hwf
    | wrGen a d => exact decode_encode_wrGen hwf
    | evPoweron | evReset | evRestore _ => rfl
    | _ => cases hm
  | xor100 =>
    cases i with
    | rdGen _ _ | wrGen _ _ => cases hm
    | rdHi a =>
      rw [encode, decode_mr_xor100 a.isLt, BitVec.ofNat_toNat, BitVec.setWidth_eq, decodeReadWindow_high hwf]
    | rdLo a =>
      rw [encode, decode_mr_xor100 a.isLt, BitVec.ofNat_toNat, BitVec.setWidth_eq,
        decodeReadWindow_low (by simpa [WellFormed] using hwf)]
    | wrWin a v =>
      rw [encode, decode_mw_xor100_byte v a.isLt, BitVec.ofNat_toNat, BitVec.setWidth_eq]
    | inCtc c => rw [encode, decode_ir, portOf_toNat, decodeIn_ctc]
    | outCtc c v => rw [encode, decode_iw, portOf_toNat, decodeOut_ctc]
    | inFdc r => rw [encode, decode_ir, portOf_toNat, decodeIn_fdc]
    | outFdc r v => rw [encode, decode_iw, portOf_toNat, decodeOut_fdc]
    | inUnmapped p => rw [encode, decode_ir, portOf_toNat, decodeIn_of_unmapped hwf]
    | outUnmapped p v => rw [encode, decode_iw, portOf_toNat, decodeOut_of_unmapped v hwf]
    | inSeraData | outSeraData _ | inSeraStat | outSeraCtrl _ | inSerbData | outSerbData _ | inSerbStat | outSerbCtrl _
    | inPpiA | outPpiA _ | inPpiB | outPpiB _ | inPpiC | outPpiC _ | inPpiCtrl | outPpiCtrl _ | outBanksel _
    | outEpromToggle _ | inEpromF800 | inDip | outBaud _ | inFdcWait | outFdcDsel _ | outFdcDens _
    | evPoweron | evReset | evRestore _ | evFdcIrq _ | evFdcDrq _ | evCentBusy _ | evCentSelect _ | evCtcZc _ _
    | evSerLine _ _ _ => rfl

/-! #### What decodes is well formed -/

theorem decodeGen_ok {a : Addr24} {n : Width} {i j : Instr} (h : decodeGen a n i = .ok j) :
    aligned a n = true ∧ j = i := by
  unfold decodeGen at h
  split at h <;> cases h
  exact ⟨‹_›, rfl⟩

theorem decodeData_width {n : Width} {x : Word16} {d : BusData} (h : decodeData n x = .ok d) : d.width = n := by
  cases n with
  | word => cases h; rfl
  | byte =>
    simp only [decodeData] at h
    split at h <;> cases h
    rfl

theorem decodeMr_wellFormed {m : MachineKind} {a n : Nat} {i : Instr} (h : decodeMr m a n = .ok i) :
    WellFormed i = true := by
  unfold decodeMr at h
  split at h
  · cases h
  · split at h
    · cases h
    · cases m with
      | xor100 => cases h; exact (decodeReadWindow_legalOnXor100 _).1
      | tr175 =>
        obtain ⟨hal, rfl⟩ := decodeGen_ok h
        exact hal

theorem decodeMw_wellFormed {m : MachineKind} {a n : Nat} {x : Word16} {i : Instr} (h : decodeMw m a n x = .ok i) :
    WellFormed i = true := by
  unfold decodeMw at h
  split at h
  · cases h
  · split at h
    · cases h
    · split at h
      · cases h
      · rename_i hd
        cases m with
        | xor100 => cases h; rfl
        | tr175 =>
          obtain ⟨hal, rfl⟩ := decodeGen_ok h
          rwa [← decodeData_width hd] at hal

theorem decode_wellFormed {m : MachineKind} {x : BusItem} {i : Instr} (h : decode m x = .ok i) :
    WellFormed i = true := by
  cases x with
  | mr a n => exact decodeMr_wellFormed h
  | mw a n d => exact decodeMw_wellFormed h
  | ir p =>
    cases m <;> cases h
    exact (decodeIn_legalOnXor100 _).1
  | iw p v =>
    cases m <;> cases h
    exact (decodeOut_legalOnXor100 _ v).1
  | ev e => cases h; exact (decodeEvent_legalOnXor100 e).1

/-- Settles O50: every format decodes to well-formed operations only, and a port is cut to its low eight bits first. -/
theorem decodedOperationsAreWellFormed : Obligations.DecodedOperationsAreWellFormed := by
  refine ⟨fun _ _ _ => decode_wellFormed, fun m p v => ?_⟩
  cases m with
  | xor100 => simp only [decode_ir, decode_iw, portOf_mod, and_self]
  | tr175 => exact ⟨rfl, rfl⟩

/-! #### The decode tables written out (R63, R64) -/

/-- Settles O52: each clause is the decode of its transaction, the window being told by its boundary F800. -/
theorem memoryDecodeByWindow : Obligations.MemoryDecodeByWindow := by
  refine ⟨fun a v ha => ⟨fun hhi => ?_, fun hlo => ?_, ?_⟩, fun a v ha => ⟨?_, ?_⟩⟩
  · rw [decode_mr_xor100 ha, decodeReadWindow_high (by simpa [inHighWindow_ofNat ha] using hhi)]
  · rw [decode_mr_xor100 ha, decodeReadWindow_low (by simpa [inHighWindow_ofNat ha] using hlo)]
  · exact decode_mw_xor100_byte v ha
  · exact decode_mr_tr175 ha rfl rfl
  · exact decode_mw_tr175 ha rfl (decodeData_setWidth v) rfl

/-- Settles O53: each clause reads one row of the table; the data byte is passed on as it is. -/
theorem writtenOutItemsDecode : Obligations.WrittenOutItemsDecode := by
  intro v
  and_intros <;> rfl

end Sys2Proof

namespace Sys2Proof.Machine

/-! #### No transaction of xor100 is refused (R67) -/

theorem onXor100_refused {s : State} {r : Refusal} {run : State → Result} (hm : s.cfg.machine = .xor100)
    (h : onXor100 s run = .refused r) : run s = .refused r := by
  rwa [onXor100_of s run hm] at h

theorem waitRequest_refused {cause : WaitCause} {s : State} {rest : State → Result} {r : Refusal}
    (h : waitRequest cause s rest = .refused r) : rest s.driveWait = .refused r := by
  rcases waitRequest_cases cause s rest with ⟨-, e⟩ | ⟨-, e⟩
  · rw [e] at h; cases h
  · rw [← e, h]

/-- On xor100 an operation that exists there completes or faults (R67). -/
theorem exec_ne_refused {i : Instr} {s : State} (hm : s.cfg.machine = .xor100) (hi : i.existsOn .xor100 = true)
    (r : Refusal) : exec i s ≠ .refused r := by
  intro h
  cases i with
  | rdGen _ _ | wrGen _ _ => cases hi
  | evPoweron | evReset | evRestore _ => cases h
  | wrWin a v =>
    rw [exec_wrWin s a v hm] at h
    split at h <;> cases h
  | inFdcWait =>
    rw [exec_inFdcWait s hm] at h
    split at h
    · cases waitRequest_refused h
    · cases h
  | evFdcIrq b =>
    rw [exec_evFdcIrq s b hm] at h
    split at h
    · cases waitRequest_refused h
    · cases h
  | evFdcDrq b =>
    rw [exec_evFdcDrq s b hm] at h
    split at h
    · cases waitRequest_refused h
    · cases h
  | rdHi _ | rdLo _ | outBanksel _ | outEpromToggle _ | inEpromF800 | inSeraData | outSeraData _ | inSeraStat
  | outSeraCtrl _ | inSerbData | outSerbData _ | inSerbStat | outSerbCtrl _ | inDip | outBaud _ | inPpiA | outPpiA _
  | inPpiB | outPpiB _ | inPpiC | outPpiC _ | inPpiCtrl | outPpiCtrl _ | inCtc _ | outCtc _ _ | inFdc _ | outFdc _ _
  | outFdcDsel _ | outFdcDens _ | inUnmapped _ | outUnmapped _ _ | evCentBusy _ | evCentSelect _ | evCtcZc _ _
  | evSerLine _ _ _ =>
    simp only [exec] at h
    cases onXor100_refused hm h

/-- A step is taken where no fault is set and the CPU is not held, or the item is an event (60 R129, R133). -/
theorem blocked_eq_none {s : State} {x : BusItem} (hf : s.fault = none) (hw : s.cpuWait = false ∨ x.format = .EV) :
    blocked s x = none := by
  rcases hw with hw | hw <;> simp [blocked, BusItem.isTransaction, hf, hw]

theorem step_eq_exec {s : State} {x : BusItem} {rest : List BusItem} {i : Instr} (hin : s.inputs = x :: rest)
    (hb : blocked s x = none) (hd : decode s.cfg.machine x = .ok i) : step s = exec i (s.accept rest) := by
  simp only [step, hin, hb, hd]

/-- Settles O46: each form decodes to an operation legal on xor100, an unblocked step runs it, and no such operation is
refused there. -/
theorem everyTransactionOfXor100HasAMeaning : Obligations.EveryTransactionOfXor100HasAMeaning := by
  intro s x rest hm hf hw hin hx
  have hdec : ∃ i, decode .xor100 x = .ok i ∧ i.LegalOnXor100 := by
    rcases hx with ⟨a, ha, rfl⟩ | ⟨a, d, ha, hd, rfl⟩ | ⟨p, rfl⟩ | ⟨p, v, rfl⟩ | ⟨e, rfl⟩
    · exact ⟨_, decode_mr_xor100 ha, decodeReadWindow_legalOnXor100 _⟩
    · exact ⟨_, decode_mw_xor100 ha hd, rfl, rfl⟩
    · exact ⟨_, decode_ir p, decodeIn_legalOnXor100 _⟩
    · exact ⟨_, decode_iw p v, decodeOut_legalOnXor100 _ v⟩
    · exact ⟨_, rfl, decodeEvent_legalOnXor100 e⟩
  refine ⟨hdec, ?_⟩
  obtain ⟨i, hd, -, hi⟩ := hdec
  rw [step_eq_exec hin (blocked_eq_none hf (.inl hw)) (by rwa [hm])]
  exact exec_ne_refused (by simpa using hm) hi

end Sys2Proof.Machine

/-! ### The memory operations (40_memory_window_ops R71 to R74) -/

namespace Sys2Proof.Machine

/-! #### Window accesses by the binding (R71 to R73) -/

theorem decode_mr_window (a : Addr16) : decode .xor100 (.mr a.toNat 1) = .ok (decodeReadWindow a) := by
  rw [decode_mr_xor100 a.isLt, BitVec.ofNat_toNat, BitVec.setWidth_eq]

theorem decode_mw_window (a : Addr16) (v : Byte) :
    decode .xor100 (.mw a.toNat 1 (v.setWidth 16)) = .ok (.wrWin a v) := by
  rw [decode_mw_xor100_byte v a.isLt, BitVec.ofNat_toNat, BitVec.setWidth_eq]

section window
variable {s : State} {a : Addr16}

theorem readHigh_rom (hb : s.win.rh = .rom) (ha : 0xF800 ≤ a.toNat) :
    readHigh s a = s.romByte (a.toNat - 0xF800) := by
  have hidx : romIndex a = a.toNat - 0xF800 := by
    have := a.isLt
    simp only [romIndex_eq, romSize]
    omega
  simp only [readHigh, hb, hidx]

theorem readHigh_ram {q : BitVec 3} (hb : s.win.rh = .ram q) :
    readHigh s a = s.ramByte (q.toNat * 0x10000 + a.toNat) := by
  simp only [readHigh, hb, physRam, bankSize]

theorem readHigh_detached (hb : s.win.rh = .detached) : readHigh s a = s.cfg.idleMem.byte := by
  simp only [readHigh, hb]

theorem readLow_romMirror (hb : s.win.rl = .romMirror) (ha : s.cfg.zeroLowMirror = true ∨ a.toNat ≤ 0x07FF) :
    readLow s a = s.romByte (a.toNat % 0x800) := by
  have hcond : (s.cfg.zeroLowMirror || decide (a.toNat ≤ 0x07FF)) = true := by simpa using ha
  simp only [readLow, hb, hcond, if_true, romIndex_eq, romSize]

theorem readLow_noMirror (hb : s.win.rl = .romMirror) (hz : s.cfg.zeroLowMirror = false) (ha : 0x07FF < a.toNat) :
    readLow s a = s.cfg.idleMem.byte := by
  simp [readLow, hb, hz, ha]

theorem readLow_ram {q : BitVec 3} (hb : s.win.rl = .ram q) :
    readLow s a = s.ramByte (q.toNat * 0x10000 + a.toNat) := by
  simp only [readLow, hb, physRam, bankSize]

theorem readLow_detached (hb : s.win.rl = .detached) : readLow s a = s.cfg.idleMem.byte := by
  simp only [readLow, hb]

theorem writeTarget_ram {q : BitVec 3} (hb : s.win.w = .ram q) (ha : a.toNat ≤ s.cfg.writeWindowEnd.addr) :
    writeTarget s a = some (q.toNat * 0x10000 + a.toNat) := by
  simp only [writeTarget, ha, if_true, hb, physRam, bankSize]

theorem writeTarget_none (h : s.win.w = .detached ∨ s.cfg.writeWindowEnd.addr < a.toNat) : writeTarget s a = none := by
  unfold writeTarget
  rcases h with hb | ha
  · simp only [hb, ite_self]
  · exact if_neg (Nat.not_le.2 ha)

end window

/-- Settles O18: the byte is `readHigh`, given by the binding RH; the column RH of the binding table gives it for the
coherent cases. -/
theorem highWindowRead : Obligations.HighWindowRead := by
  intro s a hm ha
  have hrh (hc : s.Coherent) : s.win.rh = _ := hc ▸ bind_rh s.cfg s.mode s.selector
  refine ⟨?_, readHigh s a, exec_rdHi s a hm, fun hb => readHigh_rom hb ha, fun q => readHigh_ram, readHigh_detached,
    fun hc hmode => readHigh_rom ?_ ha, fun hc hmode hr => readHigh_detached ?_⟩
  · rw [decode_mr_window, decodeReadWindow_high ((inHighWindow_iff a).2 ha)]
  · rw [hrh hc, if_neg hmode]
  · rw [hrh hc, if_pos hmode, if_neg (Nat.not_lt.2 hr)]

/-- Settles O19: the byte is `readLow`, given by the binding RL; the column RL of the binding table gives it for the
coherent cases. -/
theorem lowWindowRead : Obligations.LowWindowRead := by
  intro s a hm ha
  have hrl (hc : s.Coherent) : s.win.rl = _ := hc ▸ bind_rl s.cfg s.mode s.selector
  refine ⟨?_, readLow s a, exec_rdLo s a hm, readLow_romMirror, readLow_noMirror, fun q => readLow_ram, readLow_detached,
    fun hc hmode hz => readLow_romMirror ?_ (.inl hz), fun hc hmode hr => readLow_detached ?_⟩
  · have hlow : inHighWindow a = false := by
      rw [Bool.eq_false_iff, Ne, inHighWindow_iff]
      omega
    rw [decode_mr_window, decodeReadWindow_low hlow]
  · rw [hrl hc, if_pos hmode]
  · rw [hrl hc, if_neg hmode, if_neg (Nat.not_lt.2 hr)]

/-- Settles O20: the write is the store at `writeTarget`, which changes one byte of RAM, or nothing where there is none. -/
theorem writeWindowStoresOneByte : Obligations.WriteWindowStoresOneByte := by
  intro s a v hm
  refine ⟨decode_mw_window a v, fun hc => hc ▸ bind_w s.cfg s.mode s.selector, fun q hb ha => ?_, fun h => ?_⟩
  · refine ⟨s.writeRam (q.toNat * 0x10000 + a.toNat) v, ?_, rfl, ?_, fun i hi => ?_,
      fun i => romByte_writeRam s _ i v, fun k i => otherByte_writeRam s _ k i v⟩
    · rw [exec_wrWin_elim hm, writeTarget_ram hb ha, Option.elim_some]
    · rw [ramByte_writeRam, if_pos rfl]
    · rw [ramByte_writeRam, if_neg (Ne.symm hi)]
  · rw [exec_wrWin_elim hm, writeTarget_none h, Option.elim_none]

/-! #### The other machine's operations (R74) -/

theorem onXor100_notOn {s : State} (run : State → Result) (h : (s.cfg.machine == .xor100) = false) :
    onXor100 s run = .refused (.notOnThisMachine s.cfg.machine) := by
  cases hm : s.cfg.machine with
  | xor100 => rw [hm] at h; cases h
  | tr175 => simp only [onXor100, hm]

theorem onTr175_notOn {s : State} (run : State → Result) (h : (s.cfg.machine == .tr175) = false) :
    onTr175 s run = .refused (.notOnThisMachine s.cfg.machine) := by
  cases hm : s.cfg.machine with
  | xor100 => simp only [onTr175, hm]
  | tr175 => rw [hm] at h; cases h

/-- Settles O48: the host's three events exist on both machines; every other operation asks for its machine first. -/
theorem operationsOfTheOtherMachineAreRefused : Obligations.OperationsOfTheOtherMachineAreRefused := by
  intro i s h
  cases i with
  | evPoweron | evReset | evRestore _ => cases h
  | rdGen _ _ | wrGen _ _ =>
    simp only [exec]
    exact onTr175_notOn _ h
  | rdHi _ | rdLo _ | wrWin _ _ | outBanksel _ | outEpromToggle _ | inEpromF800 | inSeraData | outSeraData _ | inSeraStat
  | outSeraCtrl _ | inSerbData | outSerbData _ | inSerbStat | outSerbCtrl _ | inDip | outBaud _ | inPpiA | outPpiA _
  | inPpiB | outPpiB _ | inPpiC | outPpiC _ | inPpiCtrl | outPpiCtrl _ | inCtc _ | outCtc _ _ | inFdc _ | outFdc _ _
  | inFdcWait | outFdcDsel _ | outFdcDens _ | inUnmapped _ | outUnmapped _ _ | evFdcIrq _ | evFdcDrq _ | evCentBusy _
  | evCentSelect _ | evCtcZc _ _ | evSerLine _ _ _ =>
    simp only [exec]
    exact onXor100_notOn _ h

/-! #### Generic accesses on a legal table (R74, 20_memory R36, R37, R46, R48) -/

theorem aligned_iff (a : Addr24) (n : Width) : aligned a n = true ↔ n = .byte ∨ a.toNat % 2 = 0 := by
  cases n with
  | byte => simp [aligned]
  | word => simp [aligned, BitVec.getLsbD, Nat.testBit_zero]

/-- The second byte of an aligned word has an address, since the last address of the space is odd. -/
theorem succ_le_top_of_aligned {a : Addr24} (h : aligned a .word = true) : a.toNat + 1 ≤ 0xFFFFFF := by
  have hlt := a.isLt
  have heven : a.toNat % 2 = 0 := by simpa using (aligned_iff a .word).1 h
  omega

/-- What the width of an access asks of the address space (R46): the addresses of its bytes lie in it. -/
def AccessFits (top a : Nat) : Width → Prop
  | .byte => a ≤ top
  | .word => a + 1 ≤ top

theorem accessFits_of_aligned {a : Addr24} {n : Width} (h : aligned a n = true) : AccessFits 0xFFFFFF a.toNat n := by
  cases n with
  | byte => exact Nat.le_of_lt_succ a.isLt
  | word => exact succ_le_top_of_aligned h

/-- A region's size depends on the parameters and the sizes of the generic regions alone. -/
theorem regionSize_congr {s t : State} (hcfg : t.cfg = s.cfg)
    (h : t.regions.map (fun r => (r.size, r.writable)) = s.regions.map fun r => (r.size, r.writable))
    (ref : RegionRef) : t.regionSize ref = s.regionSize ref := by
  cases ref with
  | rom => rfl
  | ram => simp only [State.regionSize, hcfg]
  | other k =>
    have hk := congrArg (·[k]?) h
    simp only [List.getElem?_map] at hk
    simp only [State.regionSize]
    cases ht : t.regions[k]? <;> cases hs : s.regions[k]? <;> simp_all

theorem memWriteByte_cfg {tb : List Entry} {a : Nat} {v : Byte} {s t : State} (h : memWriteByte tb a v s = some t) :
    t.cfg = s.cfg := by
  rcases memWriteByte_some h with rfl | ⟨ref, i, -, rfl⟩ | ⟨c, r, rfl⟩
  · rfl
  · exact writeRegion_cfg s ref i v
  · rfl

/-- Whether an entry is legal depends on the sizes of the regions alone (R37). -/
theorem entry_legal_congr {s t : State} {e : Entry} (hsize : ∀ ref, t.regionSize ref = s.regionSize ref)
    (h : Entry.Legal s e) : Entry.Legal t e := by
  obtain ⟨hbase, hin⟩ := h
  exact ⟨hbase, fun ref offset amask ht a h1 h2 => (hin ref offset amask ht a h1 h2).trans_eq (hsize ref).symm⟩

section legal
variable {tb : List Entry} {top a : Nat} {s : State}
variable (ht : Tiles tb 0 top) (hleg : ∀ e ∈ tb, Entry.Legal s e)
include ht hleg

/-- On a legal table a byte read completes: an entry covers the address, and a `Direct` one stays inside its region. -/
theorem memReadByte_completes (ha : a ≤ top) : ∃ b t, memReadByte tb a s = some (b, t) := by
  obtain ⟨e, he, hl, h1, h2⟩ := lookup_of_tiles ht (Nat.zero_le a) ha
  cases htg : e.target with
  | direct ref offset amask =>
    exact ⟨_, _, memReadByte_direct hl htg ((hleg e he).2 ref offset amask htg a h1 h2)⟩
  | handler h lanes idle => exact ⟨_, _, memReadByte_handler hl htg⟩
  | unmapped idle => exact ⟨_, _, memReadByte_unmapped hl htg⟩

/-- On a legal table a byte write completes. -/
theorem memWriteByte_completes (v : Byte) (ha : a ≤ top) : ∃ t, memWriteByte tb a v s = some t := by
  obtain ⟨e, he, hl, h1, h2⟩ := lookup_of_tiles ht (Nat.zero_le a) ha
  cases htg : e.target with
  | direct ref offset amask =>
    exact ⟨_, memWriteByte_direct hl v htg ((hleg e he).2 ref offset amask htg a h1 h2)⟩
  | handler h lanes idle => exact ⟨_, memWriteByte_handler hl v htg⟩
  | unmapped idle => exact ⟨_, memWriteByte_unmapped hl v htg⟩

/-- On a legal table a read of either width completes with data of that width. -/
theorem memRead_completes (n : Width) (ha : AccessFits top a n) :
    ∃ d t, memRead tb a n s = some (d, t) ∧ d.width = n := by
  cases n with
  | byte =>
    obtain ⟨b, t, h⟩ := memReadByte_completes ht hleg ha
    exact ⟨.byte b, t, by simp [memRead, h], rfl⟩
  | word =>
    obtain ⟨b0, u, h0⟩ := memReadByte_completes ht hleg (Nat.le_of_succ_le ha)
    have hsame := sameMap_memReadByte h0
    have hleg' : ∀ e ∈ tb, Entry.Legal u e := fun e he =>
      entry_legal_congr (regionSize_congr hsame.cfg (by rw [hsame.regions])) (hleg e he)
    obtain ⟨b1, t, h1⟩ := memReadByte_completes ht hleg' ha
    exact ⟨.word (joinWord s.cfg b0 b1), t, by simp [memRead, memReadWord, h0, h1], rfl⟩

/-- On a legal table a write of either width completes. -/
theorem memWrite_completes (d : BusData) (ha : AccessFits top a d.width) : ∃ t, memWrite tb a d s = some t := by
  cases d with
  | byte v => exact memWriteByte_completes ht hleg v ha
  | word v =>
    obtain ⟨u, h0⟩ := memWriteByte_completes ht hleg (splitWord s.cfg v).1 (Nat.le_of_succ_le ha)
    have hleg' : ∀ e ∈ tb, Entry.Legal u e := fun e he =>
      entry_legal_congr (regionSize_congr (memWriteByte_cfg h0) (memWriteByte_regionByte h0).1) (hleg e he)
    obtain ⟨t, h1⟩ := memWriteByte_completes ht hleg' (splitWord s.cfg v).2 ha
    exact ⟨t, by simp [memWrite, memWriteWord, h0, h1]⟩

end legal

/-! #### What a generic access leaves alone (20_memory R40, R41, R46) -/

/-- What every byte read through a table keeps, a read of either width keeps (20_memory R46). -/
theorem memRead_keeps {P : State → Prop} {tb : List Entry}
    (hP : ∀ a b u u', memReadByte tb a u = some (b, u') → P u → P u')
    {a : Nat} {n : Width} {d : BusData} {s t : State} (h : memRead tb a n s = some (d, t)) (hs : P s) : P t := by
  cases n with
  | byte =>
    simp only [memRead, Option.map_eq_some_iff] at h
    obtain ⟨⟨b, u⟩, hb, he⟩ := h
    cases he
    exact hP _ _ _ _ hb hs
  | word =>
    simp only [memRead, Option.map_eq_some_iff] at h
    obtain ⟨⟨w, u⟩, hw, he⟩ := h
    cases he
    unfold memReadWord at hw
    split at hw
    · cases hw
    · rename_i h0
      split at hw
      · cases hw
      · rename_i h1
        cases hw
        exact hP _ _ _ _ h1 (hP _ _ _ _ h0 hs)

/-- The state after a generic read: only calls and the collaborators' answers moved on. -/
def ReadFrame (s t : State) : Prop :=
  ∃ calls chipBytes draws, t = { s with calls := calls, chipBytes := chipBytes, draws := draws }

/-- The state after a generic write: only the writable bytes and the calls changed. -/
def WriteFrame (s t : State) : Prop :=
  ∃ ram regions calls, t = { s with ram := ram, regions := regions, calls := calls }

theorem memReadByte_frame {tb : List Entry} {a : Nat} {b : Byte} {s u u' : State}
    (h : memReadByte tb a u = some (b, u')) (hu : ReadFrame s u) : ReadFrame s u' := by
  obtain ⟨_, _, _, rfl⟩ := hu
  rcases memReadByte_some h with rfl | ⟨c, r, rfl, -⟩
  · exact ⟨_, _, _, rfl⟩
  · exact ⟨_, _, _, rfl⟩

theorem memWriteByte_frame {tb : List Entry} {a : Nat} {v : Byte} {s u u' : State}
    (h : memWriteByte tb a v u = some u') (hu : WriteFrame s u) : WriteFrame s u' := by
  obtain ⟨_, _, _, rfl⟩ := hu
  rcases memWriteByte_some h with rfl | ⟨ref, i, -, rfl⟩ | ⟨c, r, rfl⟩
  · exact ⟨_, _, _, rfl⟩
  · exact ⟨_, _, _, writeRegion_frame _ ref i v⟩
  · exact ⟨_, _, _, rfl⟩

theorem memRead_frame {tb : List Entry} {a : Nat} {n : Width} {d : BusData} {s t : State}
    (h : memRead tb a n s = some (d, t)) : ReadFrame s t :=
  memRead_keeps (P := ReadFrame s) (fun _ _ _ _ => memReadByte_frame) h ⟨_, _, _, rfl⟩

theorem memWrite_frame {tb : List Entry} {a : Nat} {d : BusData} {s t : State}
    (h : memWrite tb a d s = some t) : WriteFrame s t :=
  memWrite_keeps (P := WriteFrame s) (fun _ _ _ _ => memWriteByte_frame) h ⟨_, _, _, rfl⟩

/-- A write of either width changes no region's size or access mode. -/
theorem memWrite_regions {tb : List Entry} {a : Nat} {d : BusData} {s t : State} (h : memWrite tb a d s = some t) :
    t.regions.map (fun r => (r.size, r.writable)) = s.regions.map fun r => (r.size, r.writable) :=
  memWrite_keeps
    (P := fun u => u.regions.map (fun r => (r.size, r.writable)) = s.regions.map fun r => (r.size, r.writable))
    (fun _ _ _ _ hw hu => (memWriteByte_regionByte hw).1.trans hu) h rfl

/-- A word write changes the bytes `storedAt` gives its two addresses, the one at the higher address last. -/
theorem memWriteWord_regionByte {tb : List Entry} {a : Nat} {v : Word16} {s t : State}
    (h : memWriteWord tb a v s = some t) (ref : RegionRef) (i : Nat) :
    t.regionByte ref i =
      if s.storedAt tb (a + 1) = some (ref, i) then (splitWord s.cfg v).2
      else if s.storedAt tb a = some (ref, i) then (splitWord s.cfg v).1
      else s.regionByte ref i := by
  unfold memWriteWord at h
  split at h
  · cases h
  · rename_i u hu
    obtain ⟨hregs, hfirst⟩ := memWriteByte_regionByte hu
    rw [(memWriteByte_regionByte h).2, storedAt_congr hregs, hfirst]

theorem exec_rdGen_of_memRead {s t : State} {a : Addr24} {n : Width} {d : BusData} (hm : s.cfg.machine = .tr175)
    (hal : aligned a n = true) (h : memRead s.cfg.tr175Table.read a.toNat n s = some (d, t)) :
    exec (.rdGen a n) s = .next (t.answer d) := by
  simp [exec_rdGen s a n hm, hal, h]

theorem exec_wrGen_of_memWrite {s t : State} {a : Addr24} {d : BusData} (hm : s.cfg.machine = .tr175)
    (hal : aligned a d.width = true) (h : memWrite s.cfg.tr175Table.write a.toNat d s = some t) :
    exec (.wrGen a d) s = .next t := by
  simp [exec_wrGen s a d hm, hal, h]

/-- Settles O57: on a legal table the access through the table completes, since the bytes of an aligned access lie in the
space; its frame and its stores are those of one or two byte accesses. -/
theorem genericAccessesCompleteOnLegalTables : Obligations.GenericAccessesCompleteOnLegalTables := by
  intro s a n d hm hlegal
  obtain ⟨⟨⟨htr, hlr⟩, htw, hlw⟩, -, -⟩ := hlegal
  constructor
  · intro hn
    have hal := (aligned_iff a n).2 hn
    obtain ⟨x, u, hread, hx⟩ := memRead_completes htr hlr n (accessFits_of_aligned hal)
    refine ⟨u.answer x, exec_rdGen_of_memRead hm hal hread, ?_, x, rfl, hx⟩
    obtain ⟨_, _, _, rfl⟩ := memRead_frame hread
    rfl
  · intro hd
    have hal := (aligned_iff a d.width).2 hd
    obtain ⟨t, hwrite⟩ := memWrite_completes htw (fun e he => (hlw e he).1) d (accessFits_of_aligned hal)
    refine ⟨t, exec_wrGen_of_memWrite hm hal hwrite, ?_, memWrite_regions hwrite, fun v hv => ?_, fun v hv => ?_⟩
    · obtain ⟨_, _, _, rfl⟩ := memWrite_frame hwrite
      rfl
    · subst hv
      exact (memWriteByte_regionByte hwrite).2
    · subst hv
      exact memWriteWord_regionByte hwrite

end Sys2Proof.Machine

/-! ### The bank switch (41_bank_switch_ops R75 to R81, 20_memory R51, R52) -/

namespace Sys2Proof.Machine

/-! #### The transition table of the mode (R81) -/

/-- The transition table of R81: the mode an operation leaves behind, from the mode it found. -/
def modeAfter : Instr → Mode → Mode
  | .outEpromToggle _, m => toggleMode m
  | .inEpromF800, _ => .f800
  | .evReset, _ | .evPoweron, _ => .zero
  | .evRestore p, _ => p.mode
  | _, m => m

/-- The five operations with a row of their own in the transition table (R81). -/
def WritesMode (i : Instr) : Prop :=
  (∃ v, i = .outEpromToggle v) ∨ i = .inEpromF800 ∨ i = .evReset ∨ i = .evPoweron ∨ ∃ p, i = .evRestore p

/-- An operation that completes leaves the mode of its row of the transition table. -/
theorem exec_next_mode {i : Instr} {s t : State} (h : exec i s = .next t) : t.mode = modeAfter i s.mode := by
  cases i with
  | evPoweron | evReset | evRestore _ => cases h; rfl
  | rdHi _ | rdLo _ | rdGen _ _ => exact (sameMap_memoryReads h rfl).mode
  | inSeraData | inSeraStat | inSerbData | inSerbStat | inDip | inPpiA | inPpiB | inPpiC | inPpiCtrl | inCtc _
  | inFdc _ | inFdcWait | inUnmapped _ => exact (sameMap_portReads h rfl nofun).mode
  | evFdcIrq _ => exact (sameMap_fdcEvents (.inl h)).mode
  | evFdcDrq _ => exact (sameMap_fdcEvents (.inr h)).mode
  | wrWin a v =>
    simp only [exec] at h
    obtain ⟨-, h⟩ := onXor100_next h
    split at h <;> cases h <;> rfl
  | wrGen a d =>
    simp only [exec] at h
    obtain ⟨-, h⟩ := onTr175_next h
    split at h
    · split at h <;> cases h
      obtain ⟨_, _, _, rfl⟩ := memWrite_frame ‹_›
      rfl
    · cases h
  | outBanksel _ | outEpromToggle _ | inEpromF800 | outSeraData _ | outSeraCtrl _ | outSerbData _ | outSerbCtrl _
  | outBaud _ | outPpiA _ | outPpiB _ | outPpiC _ | outPpiCtrl _ | outCtc _ _ | outFdc _ _ | outFdcDsel _
  | outFdcDens _ | outUnmapped _ _ | evCentBusy _ | evCentSelect _ | evCtcZc _ _ | evSerLine _ _ _ =>
    simp only [exec] at h
    cases (onXor100_next h).2
    rfl

/-- The state a fault keeps has the mode as it was (60 R127). -/
theorem exec_fault_mode {i : Instr} {s t : State} {c : WaitCause}
    (h : exec i s = .fault (.unsupportedWaitState c t)) : t.mode = s.mode := by
  obtain ⟨-, -, c', u, hreq, hf⟩ := exec_fault_cases h
  cases hf
  cases hreq <;> rfl

theorem modeAfter_of_not_writesMode {i : Instr} (h : ¬ WritesMode i) (m : Mode) : modeAfter i m = m := by
  unfold modeAfter
  split
  · exact absurd (.inl ⟨_, rfl⟩) h
  · exact absurd (.inr (.inl rfl)) h
  · exact absurd (.inr (.inr (.inl rfl))) h
  · exact absurd (.inr (.inr (.inr (.inl rfl)))) h
  · exact absurd (.inr (.inr (.inr (.inr ⟨_, rfl⟩)))) h
  · rfl

/-- An operation that moves the mode has a row of its own. -/
theorem writesMode_of_modeAfter_ne {i : Instr} {m : Mode} (h : modeAfter i m ≠ m) : WritesMode i :=
  of_not_not fun hi => h (modeAfter_of_not_writesMode hi m)

theorem toggleMode_eq_zero {m : Mode} : toggleMode m = .zero ↔ m = .zero := by
  cases m <;> simp [toggleMode]

theorem toggleMode_eq_off {m : Mode} : toggleMode m = .off ↔ m = .f800 := by
  cases m <;> simp [toggleMode]

/-- `ZERO` is entered only by reset, power-on and restore (R81). -/
theorem modeAfter_enters_zero {i : Instr} {m : Mode} (hm : m ≠ .zero) (h : modeAfter i m = .zero) :
    i = .evReset ∨ i = .evPoweron ∨ ∃ p, i = .evRestore p := by
  rcases writesMode_of_modeAfter_ne (h ▸ hm.symm) with ⟨v, rfl⟩ | rfl | hi
  · exact absurd (toggleMode_eq_zero.1 h) hm
  · cases h
  · exact hi

/-- `OFF` is entered only from `F800` by the toggle, and by restore (R81). -/
theorem modeAfter_enters_off {i : Instr} {m : Mode} (hm : m ≠ .off) (h : modeAfter i m = .off) :
    (m = .f800 ∧ ∃ v, i = .outEpromToggle v) ∨ ∃ p, i = .evRestore p := by
  rcases writesMode_of_modeAfter_ne (h ▸ hm.symm) with ⟨v, rfl⟩ | rfl | rfl | rfl | hi
  · exact .inl ⟨toggleMode_eq_off.1 h, v, rfl⟩
  · cases h
  · cases h
  · cases h
  · exact .inr hi

/-- `ZERO` is left only by the forced read of port 0A and by restore (R79, R81). -/
theorem modeAfter_leaves_zero {i : Instr} (h : modeAfter i .zero ≠ .zero) :
    i = .inEpromF800 ∨ ∃ p, i = .evRestore p := by
  rcases writesMode_of_modeAfter_ne h with ⟨v, rfl⟩ | hi | rfl | rfl | hi
  · exact absurd rfl h
  · exact .inl hi
  · exact absurd rfl h
  · exact absurd rfl h
  · exact .inr hi

/-- Settles O13: the mode of a next state is `modeAfter` of the old one, whose rows are the clauses; a fault keeps the
mode; the way from ZERO to OFF is two rows of the table. -/
theorem modeTransitionTable : Obligations.ModeTransitionTable := by
  refine ⟨fun i s t h => ?_, fun i s t c h => exec_fault_mode h, fun s v hm hz => ?_⟩
  · rw [exec_next_mode h]
    refine ⟨⟨?_, ?_, ?_, ?_, fun htog hread hreset hpower hrestore => modeAfter_of_not_writesMode ?_ s.mode⟩,
      modeAfter_enters_zero, modeAfter_enters_off⟩
    · rintro v rfl
      exact ⟨congrArg toggleMode, congrArg toggleMode, congrArg toggleMode⟩
    · rintro rfl
      rfl
    · rintro (rfl | rfl) <;> rfl
    · rintro p rfl
      rfl
    · rintro (⟨v, hi⟩ | hi | hi | hi | ⟨p, hi⟩)
      · exact htog v hi
      · exact hread hi
      · exact hreset hi
      · exact hpower hi
      · exact hrestore p hi
  · exact ⟨_, _, exec_inEpromF800 s hm, exec_outEpromToggle _ v hm, rfl⟩

/-! #### The port operations (R75 to R79) -/

theorem toNat_selField (v : Byte) : (selField v).toNat = v.toNat % 8 := by
  simp [selField, BitVec.extractLsb'_toNat]

/-- Settles O9: these operations end with the rebind, so the windows are `bind` of the new mode and selector, and the
columns of its table give the clauses. -/
theorem windowsFollowTheBindingTable : Obligations.WindowsFollowTheBindingTable := by
  intro i s t h hi
  have hc : t.Coherent := coherent_of_rebinding h hi
  have hw : t.win.w = _ := hc ▸ bind_w t.cfg t.mode t.selector
  have hrl : t.win.rl = _ := hc ▸ bind_rl t.cfg t.mode t.selector
  have hrh : t.win.rh = _ := hc ▸ bind_rh t.cfg t.mode t.selector
  rw [hw, hrl, hrh]
  exact ⟨fun hr => if_pos hr, fun hr => if_neg (Nat.not_lt.2 hr),
    fun hz => ⟨if_pos hz, if_neg (by simp [hz])⟩,
    fun hz hr => by rw [if_neg hz, if_pos hr],
    fun hz hr => by rw [if_neg hz, if_neg (Nat.not_lt.2 hr)],
    fun hf => if_neg (by simp [hf]),
    fun ho hr => by rw [if_pos ho, if_pos hr],
    fun ho hr => by rw [if_pos ho, if_neg (Nat.not_lt.2 hr)]⟩

/-- Settles O10: the write sets the selector to the low three bits and rebinds, and both are the same the second time. -/
theorem bankSelectWrite : Obligations.BankSelectWrite := fun s v hm =>
  ⟨_, exec_outBanksel s v hm, rfl, toNat_selField v, rfl, exec_outBanksel _ v hm⟩

/-- Settles O12: the read rebinds in mode F800 and answers the sentinel; in the transition table only its row and that of
restore lead out of ZERO. -/
theorem forcedModeRead : Obligations.ForcedModeRead := by
  refine ⟨rfl, fun s hm => ⟨_, exec_inEpromF800 s hm, rfl, rfl⟩, fun i s t h hz hne => modeAfter_leaves_zero ?_⟩
  rwa [exec_next_mode h, hz] at hne

/-! #### Rebinding the dispatch tables (R76, 20_memory R51, R52) -/

theorem filterMap_below_eq_self {lo : Nat} {t : List Entry} (h : ∀ e ∈ t, e.stop < lo) :
    t.filterMap (Entry.below lo) = t :=
  (List.filterMap_congr fun e he => if_pos (h e he)).trans List.filterMap_some

theorem filterMap_below_eq_nil {lo : Nat} {t : List Entry} (h : ∀ e ∈ t, lo ≤ e.start ∧ e.start ≤ e.stop) :
    t.filterMap (Entry.below lo) = [] :=
  List.filterMap_eq_nil_iff.2 fun e he => by
    have := h e he
    rw [Entry.below, if_neg (by omega), if_neg (by omega)]

theorem filterMap_above_eq_self {hi : Nat} {t : List Entry} (h : ∀ e ∈ t, hi < e.start) :
    t.filterMap (Entry.above hi) = t :=
  (List.filterMap_congr fun e he => if_pos (h e he)).trans List.filterMap_some

theorem filterMap_above_eq_nil {hi : Nat} {t : List Entry} (h : ∀ e ∈ t, e.start ≤ e.stop ∧ e.stop ≤ hi) :
    t.filterMap (Entry.above hi) = [] :=
  List.filterMap_eq_nil_iff.2 fun e he => by
    have := h e he
    rw [Entry.above, if_neg (by omega), if_neg (by omega)]

/-- Every entry of a part of a table lies between two addresses. -/
def EntriesWithin (t : List Entry) (lo hi : Nat) : Prop := ∀ e ∈ t, lo ≤ e.start ∧ e.start ≤ e.stop ∧ e.stop ≤ hi

/-- Rebinding the range at the bottom of a table replaces the entries that lie in it. -/
theorem rebindRange_bottom {old rest : List Entry} {hi top : Nat} (new : List Entry) (hold : EntriesWithin old 0 hi)
    (hrest : EntriesWithin rest (hi + 1) top) : rebindRange (old ++ rest) 0 hi new = new ++ rest := by
  have hbelow : (old ++ rest).filterMap (Entry.below 0) = [] := filterMap_below_eq_nil fun e he =>
    ⟨Nat.zero_le _, (List.mem_append.1 he).elim (fun h => (hold e h).2.1) (fun h => (hrest e h).2.1)⟩
  have habove : (old ++ rest).filterMap (Entry.above hi) = rest := by
    rw [List.filterMap_append, filterMap_above_eq_nil fun e he => (hold e he).2,
      filterMap_above_eq_self fun e he => (hrest e he).1, List.nil_append]
  rw [rebindRange, hbelow, habove, List.nil_append]

/-- Rebinding the range at the top of a table replaces the entries that lie in it. -/
theorem rebindRange_top {rest old : List Entry} {lo hi : Nat} (new : List Entry) (hrest : EntriesWithin rest 0 lo)
    (hold : EntriesWithin old (lo + 1) hi) (hle : lo ≤ hi) :
    rebindRange (rest ++ old) (lo + 1) hi new = rest ++ new := by
  have hbelow : (rest ++ old).filterMap (Entry.below (lo + 1)) = rest := by
    rw [List.filterMap_append, filterMap_below_eq_self fun e he => Nat.lt_succ_of_le (hrest e he).2.2,
      filterMap_below_eq_nil fun e he => ⟨(hold e he).1, (hold e he).2.1⟩, List.append_nil]
  have habove : (rest ++ old).filterMap (Entry.above hi) = [] := filterMap_above_eq_nil fun e he =>
    (List.mem_append.1 he).elim (fun h => ⟨(hrest e h).2.1, (hrest e h).2.2.trans hle⟩) (fun h => (hold e h).2)
  rw [rebindRange, hbelow, habove, List.append_nil]

theorem lowEntries_within (cfg : Config) (rl : RLBinding) : EntriesWithin (lowEntries cfg rl) 0 0xF7FF := by
  cases rl with
  | romMirror => cases hz : cfg.zeroLowMirror <;> simp [EntriesWithin, lowEntries, hz, Entry.span]
  | ram q => simp [EntriesWithin, lowEntries, Entry.span]
  | detached => simp [EntriesWithin, lowEntries, Entry.span]

theorem highEntries_within (cfg : Config) (rh : RHBinding) : EntriesWithin (highEntries cfg rh) 0xF800 0xFFFF := by
  simp [EntriesWithin, highEntries, Entry.span]

theorem writeEntries_within (cfg : Config) (w : WBinding) :
    EntriesWithin (writeEntries cfg w) 0 cfg.writeWindowEnd.addr := by
  simp [EntriesWithin, writeEntries, Entry.span]

/-- Above the write window the write table has the same entries whatever the bindings are (R52). -/
theorem exists_rest_of_writeTable (cfg : Config) :
    ∃ rest, EntriesWithin rest (cfg.writeWindowEnd.addr + 1) 0xFFFF ∧
      ∀ win, xor100WriteTable cfg win = writeEntries cfg win.w ++ rest := by
  refine ⟨_, ?_, fun _ => rfl⟩
  cases he : cfg.writeWindowEnd <;> simp [EntriesWithin, Entry.span, WriteWindowEnd.addr]

/-- Settles O16: in the read table the two rebinds replace the low entries, then the high ones; in the write table the
entries above the window do not depend on the bindings. -/
theorem rebindingTheTablesGivesTheNewTables : Obligations.RebindingTheTablesGivesTheNewTables := by
  intro cfg old new
  obtain ⟨rest, hrest, htable⟩ := exists_rest_of_writeTable cfg
  rw [rebindTables, htable old, htable new, rebindRange_bottom _ (writeEntries_within cfg old.w) hrest, xor100ReadTable,
    rebindRange_bottom _ (lowEntries_within cfg old.rl) (highEntries_within cfg old.rh),
    rebindRange_top (lo := 0xF7FF) _ (lowEntries_within cfg new.rl) (highEntries_within cfg old.rh) (by decide),
    xor100ReadTable]

end Sys2Proof.Machine

/-! ### Line events of the printer, the timer and the serial ports (42 R93; 43 R100, R106 to R108) -/

namespace Sys2Proof.Machine

/-- A level placed at bit k is that bit of the byte, and the other bits are 0. -/
theorem getLsbD_bitAt (b : Bool) {k i : Nat} (hi : i < 8) : (bitAt b k).getLsbD i = (decide (i = k) && b) := by
  have hpos : i = k ↔ ¬ i < k ∧ i - k = 0 := by omega
  have hwidth : i - k < 8 := by omega
  rw [bitAt, BitVec.getLsbD_shiftLeft, BitVec.getLsbD_setWidth, BitVec.getLsbD_ofBool]
  simp only [hpos, hi, hwidth, decide_true, Bool.true_and, Bool.decide_and, decide_not, Bool.and_assoc]

/-- The byte of `IN 06` bit by bit (43 R100). -/
theorem getLsbD_captureByte (busy select : Bool) {i : Nat} (hi : i < 8) :
    (captureByte busy select).getLsbD i = (decide (i = 5) && busy || decide (i = 4) && select) := by
  rw [captureByte, BitVec.getLsbD_or, getLsbD_bitAt busy hi, getLsbD_bitAt select hi]

/-- Settles O34: the next states are the laws of the four events, and the level an event captured is its bit of the byte
the read then returns. -/
theorem signalEventsOfPrinterTimerAndSerialLines : Obligations.SignalEventsOfPrinterTimerAndSerialLines := by
  intro s c ch l b hm
  refine ⟨⟨_, _, _, exec_evCentBusy s b hm, rfl, ?repeated, exec_inPpiC _ hm, rfl, ?busy⟩,
    ⟨_, _, _, exec_evCentSelect s b hm, rfl, exec_inPpiC _ hm, rfl, ?select⟩,
    exec_evCtcZc s c b hm, exec_evSerLine s ch l b hm⟩
  case repeated => rintro rfl; rfl
  case busy => exact (getLsbD_captureByte _ _ (by decide)).trans (by simp)
  case select => exact (getLsbD_captureByte _ _ (by decide)).trans (by simp)

end Sys2Proof.Machine

/-! ### The floppy ports (44_floppy_ops R112, R114, R116) -/

namespace Sys2Proof.Machine

/-! #### The controller's registers (R112) -/

theorem toNat_portWith_fdc (r : BitVec 2) : (portWith 0xF8#8 r).toNat = 0xF8 + r.toNat := by
  rcases portField_cases r with rfl | rfl | rfl | rfl <;> rfl

/-- The inverted data lines give the one's complement (R112, R113). -/
theorem invert_eq_not (v : Byte) : invert v = ~~~v := BitVec.xor_allOnes

/-- Settles O3: port F8 + r is the pattern of the register ports with r in its field, and the write goes through the inverted
data lines to the controller. -/
theorem floppyRegisterWriteIsInverted : Obligations.FloppyRegisterWriteIsInverted := by
  intro s r v hm
  constructor
  · rw [← toNat_portWith_fdc, decode_iw, portOf_toNat, decodeOut_fdc]
  · rw [exec_outFdc s r v hm, invert_eq_not]
    rfl

/-! #### The drive select (R114, R116) -/

theorem toNat_driveField (v : Byte) : (driveField v).toNat = v.toNat % 16 := by
  simp [driveField]

theorem getLsbD_driveField (v : Byte) (d : Drive) : (driveField v).getLsbD d.val = v.getLsbD d.val := by
  simp [driveField]

/-- Drive d is selected where its bit is set and no later bit overrides it (R114). -/
theorem selectDrive_eq_some_iff (ds : BitVec 4) (d : Drive) :
    selectDrive ds = some d ↔ ds.getLsbD d.val = true ∧ ∀ e : Drive, d.val < e.val → ds.getLsbD e.val = false := by
  simp only [selectDrive, Fin.forall_fin_succ]
  -- The branches run from the last test of R114, which overrides the others, down to the first.
  split_ifs with h3 h2 h1 h0
  all_goals fin_cases d <;> simp_all

theorem selectDrive_eq_none_iff (ds : BitVec 4) : selectDrive ds = none ↔ ds = 0#4 := by
  revert ds; decide

theorem get_start (m : Motors) (d e : Drive) : (m.start d).get e = (m.get e || decide (d = e)) := by
  fin_cases d <;> fin_cases e <;> simp [Motors.start, Motors.get]

/-- Only the motor of the drive that ends up selected is started, and none is stopped (R116). -/
theorem get_startSelected (m : Motors) (sd : Option Drive) (e : Drive) :
    (startSelected m sd).get e = (m.get e || decide (sd = some e)) := by
  cases sd with
  | none => simp [startSelected]
  | some d => simp [startSelected, get_start]

/-- Settles O27: the drive is `selectDrive` of the low four bits, the motors are `startSelected` of it, and no other field
is written. -/
theorem driveSelectWrite : Obligations.DriveSelectWrite := by
  intro s v hm
  refine ⟨_, exec_outFdcDsel s v hm, rfl, ?none, ?some, get_startSelected _ _⟩
  case none =>
    show selectDrive (driveField v) = none ↔ v.toNat % 16 = 0
    rw [selectDrive_eq_none_iff, ← toNat_driveField, ← BitVec.toNat_inj]
    rfl
  case some =>
    intro d
    show selectDrive (driveField v) = some d ↔ _
    simp only [selectDrive_eq_some_iff, getLsbD_driveField]

end Sys2Proof.Machine

/-! ### The three cases of the fault table (60 R126, R136) -/

namespace Sys2Proof.Machine

theorem fcBusy_iff {cfg : Config} {irq drq : Bool} :
    fcBusy cfg irq drq = true ↔ cfg.fcBusyFault = true ∧ irq = false ∧ drq = false := by
  simp [fcBusy, and_assoc]

theorem waitRequest_unsupported {s : State} (cause : WaitCause) (rest : State → Result)
    (hw : s.cfg.hostWait = .unsupported) :
    waitRequest cause s rest = .fault (.unsupportedWaitState cause { s with fault := some cause }) := by
  simp only [waitRequest, hw, raiseUnsupported]

/-- The converse of `exec_fault_cases`: on xor100 with `HOST_WAIT = unsupported` each wait request is answered by the fault
(60 R126, R127). -/
theorem exec_waitRequested {i : Instr} {s u : State} {c : WaitCause} (hm : s.cfg.machine = .xor100)
    (hw : s.cfg.hostWait = .unsupported) (h : WaitRequested s i c u) :
    exec i s = .fault (.unsupportedWaitState c { u with fault := some c }) := by
  cases h with
  | irqRise hi =>
    rw [exec_evFdcIrq s true hm, if_pos (risingEdge_eq_true.2 ⟨hi, rfl⟩)]
    exact waitRequest_unsupported _ _ hw
  | drqRise hd =>
    rw [exec_evFdcDrq s true hm, if_pos (risingEdge_eq_true.2 ⟨hd, rfl⟩)]
    exact waitRequest_unsupported _ _ hw
  | busyRead hb =>
    rw [exec_inFdcWait s hm, if_pos hb]
    exact waitRequest_unsupported _ _ hw

/-- On xor100 the faulting operations are the wait requests under `HOST_WAIT = unsupported`. -/
theorem exec_faults_iff_waitRequested {i : Instr} {s : State} (hm : s.cfg.machine = .xor100) :
    (∃ f, exec i s = .fault f) ↔ s.cfg.hostWait = .unsupported ∧ ∃ c u, WaitRequested s i c u := by
  constructor
  · rintro ⟨f, h⟩
    obtain ⟨-, hw, c, u, hreq, -⟩ := exec_fault_cases h
    exact ⟨hw, c, u, hreq⟩
  · rintro ⟨hw, c, u, hreq⟩
    exact ⟨_, exec_waitRequested hm hw hreq⟩

/-- The rows of the fault table (R126): an operation makes a wait request exactly as a rising edge of IRQ or DRQ, or as a
read of port FC that finds the controller busy. -/
theorem exists_waitRequested_iff {i : Instr} {s : State} :
    (∃ c u, WaitRequested s i c u) ↔
      (i = .evFdcIrq true ∧ s.irq = false) ∨ (i = .evFdcDrq true ∧ s.drq = false) ∨
        (i = .inFdcWait ∧ s.cfg.fcBusyFault = true ∧ s.irq = false ∧ s.drq = false) := by
  constructor
  · rintro ⟨_, _, hi | hd | hb⟩
    · exact .inl ⟨rfl, hi⟩
    · exact .inr (.inl ⟨rfl, hd⟩)
    · exact .inr (.inr ⟨rfl, fcBusy_iff.1 hb⟩)
  · rintro (⟨rfl, hi⟩ | ⟨rfl, hd⟩ | ⟨rfl, hb⟩)
    · exact ⟨_, _, .irqRise hi⟩
    · exact ⟨_, _, .drqRise hd⟩
    · exact ⟨_, _, .busyRead (fcBusy_iff.2 hb)⟩

/-- Each wait request has its own cause (R126, decision D25). -/
theorem WaitRequested.cause {i : Instr} {s u : State} {c : WaitCause} (h : WaitRequested s i c u) :
    (i = .evFdcIrq true ∧ c = .irqRise) ∨ (i = .evFdcDrq true ∧ c = .drqRise) ∨ (i = .inFdcWait ∧ c = .busyRead) := by
  cases h with
  | irqRise => exact .inl ⟨rfl, rfl⟩
  | drqRise => exact .inr (.inl ⟨rfl, rfl⟩)
  | busyRead => exact .inr (.inr ⟨rfl, rfl⟩)

/-- Settles O44: the faulting operations are the wait requests (`exec_fault_cases` and its converse), which are the rows of
the fault table, each with its cause; none of them is made on tr175. -/
theorem faultsExactlyInTheThreeCases : Obligations.FaultsExactlyInTheThreeCases := by
  refine ⟨fun i s hm => ?xor100, fun i s f h => ?cause, fun i s f hm h => ?tr175⟩
  case xor100 => rw [exec_faults_iff_waitRequested hm, exists_waitRequested_iff]
  case cause =>
    obtain ⟨-, -, c, u, hreq, rfl⟩ := exec_fault_cases h
    exact ⟨c, _, rfl, rfl, hreq.cause⟩
  case tr175 =>
    obtain ⟨hxor, -⟩ := exec_fault_cases h
    cases hm.symm.trans hxor

end Sys2Proof.Machine

/-! ### What every step keeps (10_state R16, R18 to R20; 00_scope R5 to R10) -/

namespace Sys2Proof.Machine

/-! #### The invariant (R18 to R20) -/

theorem coherent_congr {s t : State} (hcfg : t.cfg = s.cfg) (hmode : t.mode = s.mode) (hsel : t.selector = s.selector)
    (hwin : t.win = s.win) (hc : s.Coherent) : t.Coherent := by
  rwa [State.Coherent, hcfg, hmode, hsel, hwin]

theorem memoryWf_congr {s t : State} (hcfg : t.cfg = s.cfg) (hrom : t.rom = s.rom) (hram : t.ram = s.ram)
    (hreg : t.regions = s.regions) (h : s.MemoryWf) : t.MemoryWf := by
  rwa [State.MemoryWf, hcfg, hrom, hram, hreg]

theorem inv_of_sameMap {s t : State} (h : SameMap s t) (hs : s.Inv) : t.Inv :=
  ⟨coherent_congr h.cfg h.mode h.selector h.win hs.1, memoryWf_congr h.cfg h.rom h.ram h.regions hs.2⟩

theorem inv_of_remap {s t : State} (h : Remap s t) (hs : s.Inv) : t.Inv :=
  ⟨h.win, memoryWf_congr h.cfg h.rom h.ram h.regions hs.2⟩

/-- A store through the write window lies inside RAM, since the window is bound only to a bank that exists. -/
theorem writeTarget_lt {s : State} (hc : s.Coherent) {a : Addr16} {k : Nat} (h : writeTarget s a = some k) :
    k < ramSize s.cfg := by
  unfold writeTarget at h
  split at h
  · split at h <;> cases h
    exact physRam_lt _ _ a (ram_binding_inRange hc (.inr (.inr ‹_›))).2
  · cases h

theorem inv_writeRam {s : State} {k : Nat} (v : Byte) (hk : k < ramSize s.cfg) (hs : s.Inv) : (s.writeRam k v).Inv :=
  ⟨hs.1, writeRegion_memoryWf s .ram k v hk hs.2⟩

/-- A generic write touches no binding, and stores inside the regions only. -/
theorem inv_memWrite {tb : List Entry} {a : Nat} {d : BusData} {s t : State} (h : memWrite tb a d s = some t)
    (hs : s.Inv) : t.Inv := by
  refine ⟨?_, memWrite_keeps (P := State.MemoryWf) (fun _ _ _ _ => memWriteByte_memoryWf) h hs.2⟩
  obtain ⟨_, _, _, rfl⟩ := memWrite_frame h
  exact hs.1

theorem inv_load {s : State} (p : Persisted) (hs : s.Inv) : (s.load p).Inv :=
  ⟨load_coherent s p, memoryWf_congr (load_cfg s p) (load_rom s p) (load_ram s p) (load_regions s p) hs.2⟩

theorem powerOn_coherent (s : State) : s.powerOn.Coherent := rfl

/-- After a power-on no byte of RAM and of the writable regions is known, and the others are as before (70 R144). -/
theorem inv_powerOn {s : State} (hs : s.Inv) : s.powerOn.Inv := by
  obtain ⟨-, hrom, -, hreg⟩ := hs
  refine ⟨powerOn_coherent s, hrom, ⟨rfl, rfl⟩, fun r hr => ?_⟩
  rw [powerOn_regions] at hr
  obtain ⟨r', hr', rfl⟩ := List.mem_map.1 hr
  exact region_fresh_wf r' (hreg r' hr')

/-- Every operation that completes keeps the invariant. -/
theorem exec_next_inv {i : Instr} {s t : State} (h : exec i s = .next t) (hs : s.Inv) : t.Inv := by
  rcases exec_next_cases h with hm | hm | ⟨a, v, k, -, hk, rfl⟩ | ⟨a, d, -, hw⟩ | ⟨p, -, rfl⟩ | ⟨-, rfl⟩
  · exact inv_of_sameMap hm hs
  · exact inv_of_remap hm hs
  · exact inv_writeRam v (writeTarget_lt hs.1 hk) hs
  · exact inv_memWrite hw hs
  · exact inv_load p hs
  · exact inv_powerOn hs

/-- Settles O39: a step runs one operation on the accepted state, which has the bindings and bytes of the old one, and
every shape of an operation's next state keeps the invariant. -/
theorem stepKeepsTheInvariant : Obligations.StepKeepsTheInvariant := by
  intro s t hs h
  obtain ⟨x, rest, i, -, -, -, hx⟩ := step_next h
  exact exec_next_inv hx hs

/-- Settles O40: the bindings at reset are those of bank 0 in mode ZERO, and no byte is listed. -/
theorem resetMeetsTheInvariant : Obligations.ResetMeetsTheInvariant :=
  ⟨⟨rfl, reset_memoryWf⟩, rfl, rfl, rfl⟩

/-! #### The parameters -/

theorem exec_next_cfg {i : Instr} {s t : State} (h : exec i s = .next t) : t.cfg = s.cfg := by
  rcases exec_next_cases h with hm | hm | ⟨_, _, k, -, -, rfl⟩ | ⟨_, _, -, hw⟩ | ⟨p, -, rfl⟩ | ⟨-, rfl⟩
  · exact hm.cfg
  · exact hm.cfg
  · rfl
  · obtain ⟨_, _, _, rfl⟩ := memWrite_frame hw
    rfl
  · rfl
  · rfl

theorem exec_fault_cfg {i : Instr} {s t : State} {c : WaitCause}
    (h : exec i s = .fault (.unsupportedWaitState c t)) : t.cfg = s.cfg := by
  obtain ⟨-, -, c', u, hreq, hf⟩ := exec_fault_cases h
  cases hf
  cases hreq <;> rfl

/-- Settles O42: a step runs one operation on the accepted state, which has the same parameters; neither an operation
that completes nor one that faults changes them. -/
theorem parametersNeverChange : Obligations.ParametersNeverChange := by
  rintro s t (h | ⟨c, h⟩)
  · obtain ⟨x, rest, i, -, -, -, hx⟩ := step_next h
    exact (exec_next_cfg hx).trans (accept_cfg s rest)
  · obtain ⟨x, rest, i, -, -, -, hx⟩ := step_fault h
    exact (exec_fault_cfg hx).trans (accept_cfg s rest)

/-! #### The selector and the wait line (R16, R30) -/

/-- The selector an operation leaves behind (R16). -/
def selectorAfter : Instr → State → BitVec 3
  | .outBanksel v, _ => selField v
  | .evRestore p, _ => p.selector
  | .evPoweron, s => s.cfg.selectorPowerOn
  | _, s => s.selector

/-- The operations that can move the CPU's wait line (44 R121; log 15 for the power-on). -/
inductive MovesWaitLine : Instr → Prop
  | busyRead : MovesWaitLine .inFdcWait
  | fdcIrq (b : Bool) : MovesWaitLine (.evFdcIrq b)
  | fdcDrq (b : Bool) : MovesWaitLine (.evFdcDrq b)
  | powerOn : MovesWaitLine .evPoweron

/-- A generic read that completes answers what the table read gives (40 R74). -/
theorem exec_rdGen_next {s t : State} {a : Addr24} {n : Width} (h : exec (.rdGen a n) s = .next t) :
    ∃ d u, memRead s.cfg.tr175Table.read a.toNat n s = some (d, u) ∧ t = u.answer d := by
  have hm : s.cfg.machine = .tr175 := by
    simp only [exec] at h
    exact (onTr175_next h).1
  rw [exec_rdGen s a n hm] at h
  split at h
  · split at h <;> cases h
    exact ⟨_, _, ‹_›, rfl⟩
  · cases h

/-- A generic write that completes leaves the state of the table write (40 R74). -/
theorem exec_wrGen_next {s t : State} {a : Addr24} {d : BusData} (h : exec (.wrGen a d) s = .next t) :
    memWrite s.cfg.tr175Table.write a.toNat d s = some t := by
  have hm : s.cfg.machine = .tr175 := by
    simp only [exec] at h
    exact (onTr175_next h).1
  rw [exec_wrGen s a d hm] at h
  split at h
  · split at h <;> cases h
    assumption
  · cases h

/-- What an operation that completes does to the selector and to the wait line. -/
theorem exec_next_selector_cpuWait {i : Instr} {s t : State} (h : exec i s = .next t) :
    t.selector = selectorAfter i s ∧ (¬ MovesWaitLine i → t.cpuWait = s.cpuWait) := by
  cases i with
  | inFdcWait => exact ⟨(sameMap_portReads h rfl nofun).selector, fun hi => absurd .busyRead hi⟩
  | evFdcIrq b => exact ⟨(sameMap_fdcEvents (.inl h)).selector, fun hi => absurd (.fdcIrq b) hi⟩
  | evFdcDrq b => exact ⟨(sameMap_fdcEvents (.inr h)).selector, fun hi => absurd (.fdcDrq b) hi⟩
  | evPoweron => cases h; exact ⟨rfl, fun hi => absurd .powerOn hi⟩
  | evReset | evRestore _ => cases h; exact ⟨rfl, fun _ => rfl⟩
  | wrWin a v =>
    simp only [exec] at h
    obtain ⟨-, h⟩ := onXor100_next h
    split at h <;> cases h <;> exact ⟨rfl, fun _ => rfl⟩
  | rdGen a n =>
    obtain ⟨d, u, hread, rfl⟩ := exec_rdGen_next h
    obtain ⟨_, _, _, rfl⟩ := memRead_frame hread
    exact ⟨rfl, fun _ => rfl⟩
  | wrGen a d =>
    obtain ⟨_, _, _, rfl⟩ := memWrite_frame (exec_wrGen_next h)
    exact ⟨rfl, fun _ => rfl⟩
  | rdHi _ | rdLo _ | outBanksel _ | outEpromToggle _ | inEpromF800 | inSeraData | outSeraData _ | inSeraStat
  | outSeraCtrl _ | inSerbData | outSerbData _ | inSerbStat | outSerbCtrl _ | inDip | outBaud _ | inPpiA | outPpiA _
  | inPpiB | outPpiB _ | inPpiC | outPpiC _ | inPpiCtrl | outPpiCtrl _ | inCtc _ | outCtc _ _ | inFdc _ | outFdc _ _
  | outFdcDsel _ | outFdcDens _ | inUnmapped _ | outUnmapped _ _ | evCentBusy _ | evCentSelect _ | evCtcZc _ _
  | evSerLine _ _ _ =>
    simp only [exec] at h
    cases (onXor100_next h).2
    exact ⟨rfl, fun _ => rfl⟩

theorem selectorAfter_of_not_writer {i : Instr} (s : State) (hsel : ∀ v, i ≠ .outBanksel v)
    (hres : ∀ p, i ≠ .evRestore p) (hpow : i ≠ .evPoweron) : selectorAfter i s = s.selector := by
  unfold selectorAfter
  split
  · exact absurd rfl (hsel _)
  · exact absurd rfl (hres _)
  · exact absurd rfl hpow
  · rfl

/-- Settles O14: the selector of a next state is `selectorAfter`, which has a case for each of the three writers. -/
theorem selectorChangesOnlyByItsWriters : Obligations.SelectorChangesOnlyByItsWriters := by
  intro i s t h
  rw [(exec_next_selector_cpuWait h).1]
  refine ⟨?_, ?_, ?_, selectorAfter_of_not_writer s⟩
  · rintro v rfl
    exact toNat_selField v
  · rintro p rfl
    rfl
  · rintro rfl
    rfl

end Sys2Proof.Machine

/-! ### What a step is blocked by, and the stall (30_encoding R60; 60 R129, R133, R134) -/

namespace Sys2Proof.Machine

/-- Settles O47: an unblocked step runs the decoded operation on the accepted state. -/
theorem stepRunsTheDecodedOperation : Obligations.StepRunsTheDecodedOperation :=
  fun _ _ _ _ hin hf hw hd => step_eq_exec hin (blocked_eq_none hf hw) hd

theorem step_of_blocked {s : State} {x : BusItem} {rest : List BusItem} {r : Result} (hin : s.inputs = x :: rest)
    (hb : blocked s x = some r) : step s = r := by
  simp only [step, hin, hb]

/-- A set fault blocks every item but a power-on (60 R133, R134). -/
theorem blocked_of_fault {s : State} {c : WaitCause} (x : BusItem) (hf : s.fault = some c) :
    blocked s x = if x = .ev .powerOn then none else some (.fault (.alreadyFaulted c)) := by
  simp only [blocked, hf]

/-- A held CPU issues no transaction (60 R129). -/
theorem blocked_of_stall {s : State} {x : BusItem} (hf : s.fault = none) (hw : s.cpuWait = true) (hx : x.format ≠ .EV) :
    blocked s x = some (.refused .cpuStalled) := by
  simp [blocked, hf, hw, BusItem.isTransaction, hx]

/-- Settles O45: the fault blocks all but a power-on, which runs and clears it. -/
theorem faultedMachineStops : Obligations.FaultedMachineStops := by
  intro s c x rest hf hin
  constructor
  · intro hx
    exact step_of_blocked hin ((blocked_of_fault x hf).trans (if_neg hx))
  · rintro rfl
    exact ⟨_, step_eq_exec hin ((blocked_of_fault _ hf).trans (if_pos rfl)) rfl, rfl⟩

/-- What a held CPU's step takes is an event: every transaction is blocked, by the stall or by a set fault. -/
theorem format_of_unblocked_stall {s : State} {x : BusItem} (hb : blocked s x = none) (hw : s.cpuWait = true) :
    x.format = .EV := by
  cases hf : s.fault with
  | none =>
    by_contra hx
    cases (blocked_of_stall hf hw hx).symm.trans hb
  | some c =>
    have hx : x = .ev .powerOn := by
      by_contra hx
      cases ((blocked_of_fault x hf).trans (if_neg hx)).symm.trans hb
    rw [hx]
    rfl

theorem event_of_movesWaitLine {e : Event} (h : MovesWaitLine (decodeEvent e)) :
    (∃ b, e = .fdcIrq b) ∨ (∃ b, e = .fdcDrq b) ∨ e = .powerOn := by
  cases e with
  | fdcIrq b => exact .inl ⟨b, rfl⟩
  | fdcDrq b => exact .inr (.inl ⟨b, rfl⟩)
  | powerOn => exact .inr (.inr rfl)
  | _ => cases h

/-- A wait request completes only with `HOST_WAIT = stall` (60 R129). -/
theorem waitRequest_next {cause : WaitCause} {s t : State} {rest : State → Result}
    (h : waitRequest cause s rest = .next t) : s.cfg.hostWait = .stall := by
  rcases waitRequest_cases cause s rest with ⟨-, e⟩ | ⟨hw, -⟩
  · cases e.symm.trans h
  · exact hw

/-- A floppy line event that completes with `HOST_WAIT = unsupported` made no wait request. -/
theorem lineEvent_next {cause : WaitCause} {u t : State} {old b : Bool}
    (h : (if risingEdge old b then waitRequest cause u .next else .next u) = .next t)
    (hw : u.cfg.hostWait = .unsupported) : t = u := by
  split at h
  · cases hw.symm.trans (waitRequest_next h)
  · cases h
    rfl

/-- With `HOST_WAIT = unsupported` no operation raises the wait line: a wait request would end in the fault. -/
theorem exec_next_cpuWait_of_unsupported {i : Instr} {s t : State} (h : exec i s = .next t)
    (hw : s.cfg.hostWait = .unsupported) (hs : s.cpuWait = false) : t.cpuWait = false := by
  by_cases hi : MovesWaitLine i
  · cases hi with
    | powerOn => cases h; rfl
    | busyRead =>
      simp only [exec] at h
      obtain ⟨-, h⟩ := onXor100_next h
      split at h
      · cases hw.symm.trans (waitRequest_next h)
      · cases h
        exact hs
    | fdcIrq b =>
      simp only [exec] at h
      obtain ⟨-, h⟩ := onXor100_next h
      cases lineEvent_next h hw
      simp [hs]
    | fdcDrq b =>
      simp only [exec] at h
      obtain ⟨-, h⟩ := onXor100_next h
      cases lineEvent_next h hw
      simp [hs]
  · exact ((exec_next_selector_cpuWait h).2 hi).trans hs

/-- Settles O33: the stall blocks every transaction, so the step of a stalled CPU takes an event, and of the events only
three move the wait line; with `HOST_WAIT = unsupported` no operation raises it. -/
theorem stallLastsUntilAFloppyEvent : Obligations.StallLastsUntilAFloppyEvent := by
  refine ⟨fun s x rest hw hf hin hx => step_of_blocked hin (blocked_of_stall hf hw hx), fun s t h hw ht => ?ends,
    fun s t h hw hs => ?unsupported⟩
  case ends =>
    obtain ⟨x, rest, i, hin, hb, hd, hx⟩ := step_next h
    have hmoves : MovesWaitLine i := by
      by_contra hi
      have hkept : t.cpuWait = s.cpuWait := (exec_next_selector_cpuWait hx).2 hi
      cases ht.symm.trans (hkept.trans hw)
    refine ⟨x, rest, hin, ?_⟩
    have hev := format_of_unblocked_stall hb hw
    cases x with
    | ev e =>
      cases hd
      simpa using event_of_movesWaitLine hmoves
    | _ => cases hev
  case unsupported =>
    obtain ⟨x, rest, i, -, -, -, hx⟩ := step_next h
    exact exec_next_cpuWait_of_unsupported hx hw hs

end Sys2Proof.Machine

/-! ### Dispatch tables, word accesses and refused widths (20_memory R36, R37, R46, R48, R49) -/

namespace Sys2Proof.Machine

/-! #### The tables of xor100 (R36, R37, R52) -/

theorem tiles_append {t u : List Entry} {lo mid top : Nat} (ht : Tiles t lo mid) (hu : Tiles u (mid + 1) top)
    (hle : mid ≤ top) : Tiles (t ++ u) lo top := by
  induction t generalizing lo with
  | nil =>
    simp only [Tiles] at ht
    rwa [List.nil_append, ht]
  | cons e rest ih =>
    obtain ⟨hstart, hne, hstop, hrest⟩ := ht
    exact ⟨hstart, hne, hstop.trans hle, ih hrest⟩

theorem tiles_lowEntries (cfg : Config) (rl : RLBinding) : Tiles (lowEntries cfg rl) 0 0xF7FF := by
  cases rl with
  | romMirror => cases hz : cfg.zeroLowMirror <;> simp [lowEntries, hz, Tiles, Entry.span]
  | ram q => simp [lowEntries, Tiles, Entry.span]
  | detached => simp [lowEntries, Tiles, Entry.span]

theorem tiles_highEntries (cfg : Config) (rh : RHBinding) : Tiles (highEntries cfg rh) 0xF800 0xFFFF := by
  simp [highEntries, Tiles, Entry.span]

theorem tiles_readTable (cfg : Config) (win : Windows) : Tiles (xor100ReadTable cfg win) 0 0xFFFF :=
  tiles_append (tiles_lowEntries cfg win.rl) (tiles_highEntries cfg win.rh) (by decide)

theorem tiles_writeTable (cfg : Config) (win : Windows) : Tiles (xor100WriteTable cfg win) 0 0xFFFF := by
  cases he : cfg.writeWindowEnd <;>
    simp [xor100WriteTable, writeEntries, he, Tiles, Entry.span, WriteWindowEnd.addr]

/-- An entry that maps nothing names no region. -/
theorem legal_unmapped (s : State) (start stop : Nat) (idle : Idle) :
    Entry.Legal s (.span start stop (.unmapped idle)) :=
  ⟨rfl, nofun⟩

/-- An entry of a bank that exists stays inside RAM (R37, R52). -/
theorem legal_ramTarget {s : State} {q : BitVec 3} {start stop : Nat} (hq : q.toNat < s.cfg.bankCount.val)
    (hstop : stop ≤ 0xFFFF) : Entry.Legal s (.span start stop (ramTarget q start)) := by
  refine ⟨rfl, fun ref offset amask ht a h1 h2 => ?_⟩
  cases ht
  simp only [Entry.span] at h1 h2 ⊢
  rw [directIndex_full (by omega)]
  simp only [State.regionSize, ramSize, bankSize]
  omega

/-- A ROM entry stays inside ROM where its mask or its length does (R37, R52). -/
theorem legal_romTarget {s : State} {start stop amask : Nat} (h : amask < romSize ∨ stop - start < romSize) :
    Entry.Legal s (.span start stop (.direct .rom 0 amask)) := by
  refine ⟨rfl, fun ref offset amask' ht a h1 h2 => ?_⟩
  cases ht
  have hmask : (a - start) &&& amask ≤ amask := Nat.and_le_right
  have hlen : (a - start) &&& amask ≤ a - start := Nat.and_le_left
  simp only [Entry.span, directIndex, State.regionSize] at h1 h2 ⊢
  omega

theorem legal_readTable {s : State} (hc : s.Coherent) : ∀ e ∈ xor100ReadTable s.cfg s.win, Entry.Legal s e := by
  have hlow : ∀ e ∈ lowEntries s.cfg s.win.rl, Entry.Legal s e := by
    cases hrl : s.win.rl with
    | romMirror =>
      cases hz : s.cfg.zeroLowMirror with
      | true => simpa [lowEntries, hz] using legal_romTarget (.inl (by decide))
      | false => simpa [lowEntries, hz] using ⟨legal_romTarget (.inr (by decide)), legal_unmapped _ _ _ _⟩
    | ram q =>
      simpa [lowEntries] using legal_ramTarget (ram_binding_inRange hc (.inr (.inl hrl))).2 (by decide)
    | detached => simpa [lowEntries] using legal_unmapped _ _ _ _
  have hhigh : ∀ e ∈ highEntries s.cfg s.win.rh, Entry.Legal s e := by
    cases hrh : s.win.rh with
    | rom => simpa [highEntries] using legal_romTarget (.inr (by decide))
    | ram q => simpa [highEntries] using legal_ramTarget (ram_binding_inRange hc (.inl hrh)).2 (by decide)
    | detached => simpa [highEntries] using legal_unmapped _ _ _ _
  exact fun e he => (List.mem_append.1 he).elim (hlow e) (hhigh e)

theorem writeWindowEnd_le (w : WriteWindowEnd) : w.addr ≤ 0xFFFF := by
  cases w <;> decide

/-- An entry of the write table is the write window bound to a bank that exists, or maps nothing. -/
theorem mem_writeTable {s : State} (hc : s.Coherent) {e : Entry} (he : e ∈ xor100WriteTable s.cfg s.win) :
    (∃ q : BitVec 3, q.toNat < s.cfg.bankCount.val ∧ e = .span 0 s.cfg.writeWindowEnd.addr (ramTarget q 0)) ∨
      ∃ start stop, e = .span start stop (.unmapped s.cfg.idleMem) := by
  rcases List.mem_append.1 he with he | he
  · cases hw : s.win.w with
    | ram q =>
      rw [hw] at he
      exact .inl ⟨q, (ram_binding_inRange hc (.inr (.inr hw))).2, List.mem_singleton.1 he⟩
    | detached =>
      rw [hw] at he
      exact .inr ⟨_, _, List.mem_singleton.1 he⟩
  · cases hend : s.cfg.writeWindowEnd with
    | atFFFF => simp [hend] at he
    | atF7FF =>
      rw [hend] at he
      exact .inr ⟨_, _, List.mem_singleton.1 he⟩

theorem legal_writeTable {s : State} (hc : s.Coherent) :
    ∀ e ∈ xor100WriteTable s.cfg s.win, Entry.Legal s e ∧ Entry.WriteLegal s e := by
  intro e he
  rcases mem_writeTable hc he with ⟨q, hq, rfl⟩ | ⟨start, stop, rfl⟩
  · refine ⟨legal_ramTarget hq (writeWindowEnd_le _), fun ref offset amask ht => ?_⟩
    cases ht
    rfl
  · exact ⟨legal_unmapped s start stop _, nofun⟩

/-- Settles O24: the low entries end where the high ones begin and the write window where the rest begins; a window
bound to RAM has a bank that exists, ROM entries are cut to ROM, and only RAM is bound for writing. -/
theorem xor100TablesAreLegal : Obligations.Xor100TablesAreLegal := by
  intro s hm hc
  have ht : s.tables = ⟨xor100ReadTable s.cfg s.win, xor100WriteTable s.cfg s.win⟩ := by simp only [State.tables, hm]
  rw [ht]
  exact ⟨⟨tiles_readTable s.cfg s.win, legal_readTable hc⟩, tiles_writeTable s.cfg s.win, legal_writeTable hc⟩

/-! #### Word accesses (R46) -/

/-- A byte read completes with what `MemRead(a, 1)` gives (R40). -/
theorem memReadByte_of_exec {s t : State} {a : Addr24} {b : Byte} (h : exec (.rdGen a .byte) s = .next t)
    (hb : t.result = some (.byte b)) :
    ∃ u, memReadByte s.cfg.tr175Table.read a.toNat s = some (b, u) ∧ t = u.answer (.byte b) := by
  obtain ⟨d, u, hread, rfl⟩ := exec_rdGen_next h
  simp only [memRead, Option.map_eq_some_iff] at hread
  obtain ⟨⟨b', u'⟩, hbyte, he⟩ := hread
  cases he
  cases hb
  exact ⟨_, hbyte, rfl⟩

theorem handlerRead_answer (h : HandlerRef) (lanes : Lanes) (idle : Byte) (base a : Nat) (d : BusData) (s : State) :
    handlerRead h lanes idle base a (s.answer d) =
      ((handlerRead h lanes idle base a s).1, (handlerRead h lanes idle base a s).2.answer d) := by
  unfold handlerRead
  rw [answer_cfg]
  split <;> rfl

/-- What the last read answered plays no part in a read through a table. -/
theorem memReadByte_answer (tb : List Entry) (a : Nat) (d : BusData) (s : State) :
    memReadByte tb a (s.answer d) = (memReadByte tb a s).map fun p => (p.1, p.2.answer d) := by
  cases hl : lookup tb a with
  | none => simp [memReadByte, hl]
  | some e =>
    cases ht : e.target with
    | direct ref offset amask =>
      have hsize : (s.answer d).regionSize ref = s.regionSize ref := by cases ref <;> rfl
      have hbyte (i : Nat) : (s.answer d).regionByte ref i = s.regionByte ref i := by cases ref <;> rfl
      simp only [memReadByte, hl, ht, hsize, hbyte]
      split <;> rfl
    | handler h lanes idle =>
      simp only [memReadByte_handler hl ht, handlerRead_answer, Option.map_some]
    | unmapped idle => simp only [memReadByte_unmapped hl ht, Option.map_some]

theorem splitWord_append (cfg : Config) (hi lo : Byte) :
    splitWord cfg (hi ++ lo) = (if cfg.bus16BigEndian then hi else lo, if cfg.bus16BigEndian then lo else hi) := by
  have hhigh : (hi ++ lo).extractLsb' 8 8 = hi := BitVec.extractLsb'_append_eq_left
  have hlow : (hi ++ lo).extractLsb' 0 8 = lo := BitVec.extractLsb'_append_eq_right
  unfold splitWord
  split <;> simp only [hhigh, hlow]

theorem toNat_succ_of_even {a : Addr24} (h : a.toNat % 2 = 0) : (a + 1#24).toNat = a.toNat + 1 := by
  have hle := succ_le_top_of_aligned ((aligned_iff a .word).2 (.inr h))
  rw [BitVec.toNat_add, BitVec.toNat_ofNat]
  omega

/-- Settles O56: each byte access is the table access of its address, the second one on the state the first leaves, and
`memReadWord` and `memWriteWord` are these two in order. -/
theorem wordAccessIsTwoByteAccesses : Obligations.WordAccessIsTwoByteAccesses := by
  intro s t u a hm heven
  have hal : aligned a .word = true := (aligned_iff a .word).2 (.inr heven)
  constructor
  · intro b0 b1 h0 hb0 h1 hb1
    obtain ⟨s1, hread0, rfl⟩ := memReadByte_of_exec h0 hb0
    obtain ⟨s2, hread1, rfl⟩ := memReadByte_of_exec h1 hb1
    have hcfg : s1.cfg = s.cfg := (sameMap_memReadByte hread0).cfg
    rw [answer_cfg, hcfg, toNat_succ_of_even heven, memReadByte_answer, Option.map_eq_some_iff] at hread1
    obtain ⟨⟨b, s3⟩, hread1, he⟩ := hread1
    cases he
    have hword : memRead s.cfg.tr175Table.read a.toNat .word s = some (.word (joinWord s.cfg b0 b), s3) := by
      simp [memRead, memReadWord, hread0, hread1]
    rw [exec_rdGen_of_memRead hm hal hword]
    rfl
  · intro hi lo h0 h1
    have hwrite0 := exec_wrGen_next h0
    have hwrite1 := exec_wrGen_next h1
    rw [memWriteByte_cfg hwrite0, toNat_succ_of_even heven] at hwrite1
    refine exec_wrGen_of_memWrite hm hal ?_
    simp only [memWrite, memWriteWord, splitWord_append] at hwrite0 hwrite1 ⊢
    rw [hwrite0]
    exact hwrite1

/-! #### Refused widths (R48, R49) -/

theorem decodeGen_misaligned {a : Addr24} {n : Width} (i : Instr) (h : aligned a n = false) :
    decodeGen a n i = .error .misalignedWord := if_neg (by simp [h])

/-- Settles O58: an odd address is not aligned for a word, which both the meanings and the decoder of tr175 test; xor100
has no width of two. -/
theorem misalignedAndWideRequestsAreRefused : Obligations.MisalignedAndWideRequestsAreRefused := by
  refine ⟨fun s a v hm hodd => ?_, fun a v ha => ⟨if_neg (Nat.not_le.2 ha), if_neg (Nat.not_le.2 ha)⟩⟩
  have hal : aligned a .word = false := by
    rw [Bool.eq_false_iff, Ne, aligned_iff]
    rintro (h | h)
    · cases h
    · omega
  have hdec : aligned (BitVec.ofNat 24 a.toNat) .word = false := by
    rwa [BitVec.ofNat_toNat, BitVec.setWidth_eq]
  refine ⟨?_, ?_, ?_, ?_⟩
  · rw [exec_rdGen s a .word hm, if_neg (by simp [hal])]
  · rw [exec_wrGen s a (.word v) hm, if_neg (by simp [BusData.width, hal])]
  · exact (if_neg (Nat.not_le.2 a.isLt)).trans (decodeGen_misaligned _ hdec)
  · exact (if_neg (Nat.not_le.2 a.isLt)).trans (decodeGen_misaligned _ hdec)

end Sys2Proof.Machine

/-! ### The unmapped ports (45 R122 to R124) -/

namespace Sys2Proof

open Machine

theorem unmappedIn_iff (p : Byte) : unmappedIn p = true ↔
    p.toNat = 0x08 ∨ p.toNat = 0x09 ∨ (0x10 ≤ p.toNat ∧ p.toNat ≤ 0xF7) ∨ 0xFD ≤ p.toNat := by
  have := p.isLt
  simp only [unmappedIn, Bool.or_eq_true, Bool.and_eq_true, beq_iff_eq, decide_eq_true_eq, BitVec.le_def,
    ← BitVec.toNat_inj, BitVec.toNat_ofNat]
  omega

theorem unmappedOut_iff (p : Byte) : unmappedOut p = true ↔
    p.toNat = 0x0A ∨ (0x10 ≤ p.toNat ∧ p.toNat ≤ 0xF7) ∨ 0xFE ≤ p.toNat := by
  have := p.isLt
  simp only [unmappedOut, Bool.or_eq_true, Bool.and_eq_true, beq_iff_eq, decide_eq_true_eq, BitVec.le_def,
    ← BitVec.toNat_inj, BitVec.toNat_ofNat]
  omega

/-- A port read decodes to the unmapped operation exactly at the ports R124 lists: what decodes is well formed. -/
theorem decode_ir_unmapped_iff (addr : Nat) :
    decode .xor100 (.ir addr) = .ok (.inUnmapped (portOf addr)) ↔ unmappedIn (portOf addr) = true :=
  ⟨decode_wellFormed, fun h => by rw [decode_ir, decodeIn_of_unmapped h]⟩

theorem decode_iw_unmapped_iff (addr : Nat) (v : Byte) :
    decode .xor100 (.iw addr v) = .ok (.outUnmapped (portOf addr) v) ↔ unmappedOut (portOf addr) = true :=
  ⟨decode_wellFormed, fun h => by rw [decode_iw, decodeOut_of_unmapped v h]⟩

/-- Settles O51: the unmapped operations stand for the ports listed, told by the low eight bits of the address. -/
theorem unmappedPortsAreExactlyTheListed : Obligations.UnmappedPortsAreExactlyTheListed := by
  intro addr v
  have hport : (portOf addr).toNat = addr % 256 := BitVec.toNat_ofNat addr 8
  rw [← hport, ← unmappedIn_iff, ← unmappedOut_iff]
  exact ⟨decode_ir_unmapped_iff addr, decode_iw_unmapped_iff addr v⟩

end Sys2Proof

namespace Sys2Proof.Machine

/-- The idle value is all ones or zero (R38). -/
theorem idle_byte_eq (i : Idle) : i.byte = if i = .ones then 0xFF#8 else 0x00#8 := by
  cases i <;> rfl

/-- Settles O8: the read answers the idle value, the write leaves the state. -/
theorem unmappedPortsAreIdle : Obligations.UnmappedPortsAreIdle := by
  intro s p v hm
  rw [← idle_byte_eq]
  exact ⟨exec_inUnmapped s p hm, exec_outUnmapped s p v hm⟩

end Sys2Proof.Machine

/-! ### The ports that pass through, and the ports of the block (42, 43, 44 R111) -/

namespace Sys2Proof.Machine

/-! #### Pass-through reads and writes -/

/-- Settles O1: each pair of the list is a pass-through read and a pass-through write of one register. -/
theorem serialPortsPassThrough : Obligations.SerialPortsPassThrough := by
  intro s v i o c r hm hmem
  simp only [List.mem_cons, List.not_mem_nil, or_false, Prod.mk.injEq] at hmem
  rcases hmem with ⟨rfl, rfl, rfl, rfl⟩ | ⟨rfl, rfl, rfl, rfl⟩ | ⟨rfl, rfl, rfl, rfl⟩ | ⟨rfl, rfl, rfl, rfl⟩
  · exact ⟨exec_inSeraData s hm, exec_outSeraData s v hm⟩
  · exact ⟨exec_inSeraStat s hm, exec_outSeraCtrl s v hm⟩
  · exact ⟨exec_inSerbData s hm, exec_outSerbData s v hm⟩
  · exact ⟨exec_inSerbStat s hm, exec_outSerbCtrl s v hm⟩

/-- Settles O2: each operation of the first list is a pass-through read, each of the second a pass-through write. -/
theorem parallelAndTimerPortsPassThrough : Obligations.ParallelAndTimerPortsPassThrough := by
  intro s v ch i c r hm
  simp only [List.mem_cons, List.not_mem_nil, or_false, Prod.mk.injEq]
  constructor
  · rintro (⟨rfl, rfl, rfl⟩ | ⟨rfl, rfl, rfl⟩ | ⟨rfl, rfl, rfl⟩ | ⟨rfl, rfl, rfl⟩)
    · exact exec_inPpiA s hm
    · exact exec_inPpiB s hm
    · exact exec_inPpiCtrl s hm
    · exact exec_inCtc s ch hm
  · rintro (⟨rfl, rfl, rfl⟩ | ⟨rfl, rfl, rfl⟩ | ⟨rfl, rfl, rfl⟩)
    · exact exec_outPpiC s v hm
    · exact exec_outPpiCtrl s v hm
    · exact exec_outCtc s ch v hm

theorem reply_of_supplied {s : State} {b : Byte} {bs : List Byte} (h : s.chipBytes = b :: bs) : s.reply = b := by
  simp only [State.reply, h, List.head?_cons, Option.getD_some]

/-- Settles O4: the read answers the complement of the reply, and complementing twice gives the byte back. -/
theorem floppyRegisterReadIsInverted : Obligations.FloppyRegisterReadIsInverted := by
  intro s r hm
  rw [exec_inFdc s r hm, ← invert_eq_not]
  refine ⟨rfl, fun v bs hbs => ⟨_, rfl, ?_⟩⟩
  rw [answer_result, reply_of_supplied hbs, invert_eq_not, BitVec.not_not]

/-! #### The DIP switch, the baud generator and the printer -/

theorem toNat_codeAField (v : Byte) : (codeAField v).toNat = v.toNat % 16 := by
  simp [codeAField, BitVec.extractLsb'_toNat]

theorem toNat_codeBField (v : Byte) : (codeBField v).toNat = v.toNat / 16 := by
  have := v.isLt
  rw [codeBField, BitVec.extractLsb'_toNat, Nat.shiftRight_eq_div_pow]
  omega

/-- Settles O5: the write sets the two nibbles and tells the generator; the switch is a parameter, which it leaves. -/
theorem dipSwitchReadAndBaudWrite : Obligations.DipSwitchReadAndBaudWrite := by
  intro s v hm
  refine ⟨exec_inDip s hm, _, exec_outBaud s v hm, ?_, toNat_codeAField v, toNat_codeBField v, _, exec_inDip _ hm, rfl⟩
  simp only [State.emit, ← List.append_cons]

/-- The strobe is bit 0 of the byte (43 R98). -/
theorem strobeField_eq (v : Byte) : strobeField v = decide (v.toNat % 2 = 1) := by
  rw [strobeField, BitVec.getLsbD, Nat.testBit_zero]

/-- Settles O6: the latch and the strobe are the one field each write sets besides its calls. -/
theorem printerLatchAndStrobe : Obligations.PrinterLatchAndStrobe := by
  intro s v hm
  refine ⟨exec_outPpiA s v hm, ?_⟩
  rw [exec_outPpiB s v hm, strobeField_eq]
  simp only [State.emit, ← List.append_cons]

/-- Settles O7: the read answers the capture byte, whose bits are known; the write of port 06 leaves both captured
lines. -/
theorem printerCaptureBits : Obligations.PrinterCaptureBits := by
  intro s w hm
  refine ⟨captureByte s.centBusy s.centSelect, exec_inPpiC s hm, ?busy, ?select, fun k hk h4 h5 => ?zero,
    _, _, exec_outPpiC s w hm, exec_inPpiC _ hm, rfl⟩
  case busy => exact (getLsbD_captureByte _ _ (by decide)).trans (by simp)
  case select => exact (getLsbD_captureByte _ _ (by decide)).trans (by simp)
  case zero => simp [getLsbD_captureByte _ _ hk, h4, h5]

end Sys2Proof.Machine

/-! ### Density, status and wait requests of the floppy layer (44 R115, R117, R119 to R121) -/

namespace Sys2Proof.Machine

/-! #### The density command (R117) -/

theorem densityField_eq {v : Byte} {cmd : BitVec 2} (h : v.toNat % 4 = cmd.toNat) : densityField v = cmd := by
  refine BitVec.eq_of_toNat_eq (Eq.trans ?_ h)
  simp [densityField, BitVec.extractLsb'_toNat]

/-- Settles O28: the command is `v mod 4`, and `nextDensity` has a branch for each of its four values. -/
theorem densityWrite : Obligations.DensityWrite := by
  intro s v hm
  refine ⟨_, exec_outFdcDens s v hm, rfl, fun h => ?hold, fun h => ?set, fun h => ?clear, fun h => ?toggle⟩
  case hold => simp [densityField_eq (cmd := 0#2) h, nextDensity]
  case set => simp [densityField_eq (cmd := 1#2) h, nextDensity]
  case clear => simp [densityField_eq (cmd := 2#2) h, nextDensity]
  case toggle => simp [densityField_eq (cmd := 3#2) h, nextDensity]

/-! #### Completing without a wait request (R115, R119, R120) -/

/-- Settles O29: no wait is asked, so the read answers the status byte, the one level at bit 7. -/
theorem waitStatusReadCompletes : Obligations.WaitStatusReadCompletes := by
  intro s hm h
  have hfree : ¬ fcBusy s.cfg s.irq s.drq = true := by
    rw [fcBusy_iff]
    rintro ⟨hfault, hirq, hdrq⟩
    simp [hfault, hirq, hdrq] at h
  refine ⟨fcStatusByte s.cfg s.irq, (exec_inFdcWait s hm).trans (if_neg hfree), ?_, fun k hk => ?_⟩
  · exact (getLsbD_bitAt _ (by decide)).trans (by simp)
  · simp [fcStatusByte, getLsbD_bitAt _ (Nat.lt_succ_of_lt hk), Nat.ne_of_lt hk]

/-- A floppy line event leaves the wait line and the free values alone where no stall is in progress. -/
theorem stallMayEnd_cpuWait_draws {s : State} (h : s.cpuWait = false) :
    s.stallMayEnd.cpuWait = false ∧ s.stallMayEnd.draws = s.draws := by
  rw [stallMayEnd_of_free s h]
  exact ⟨h, rfl⟩

theorem risingEdge_eq_false {old new : Bool} (h : old = true ∨ new = false) : ¬ risingEdge old new = true := by
  rw [risingEdge_eq_true]
  rintro ⟨rfl, rfl⟩
  simp at h

/-- Settles O30: without an edge no request is made, and the event sets its line in the state a stall may have left. -/
theorem floppyLineEventsWithoutEdge : Obligations.FloppyLineEventsWithoutEdge := by
  intro s b hm
  exact ⟨fun h => ⟨_, (exec_evFdcIrq s b hm).trans (if_neg (risingEdge_eq_false h)), rfl, stallMayEnd_cpuWait_draws⟩,
    fun h => ⟨_, (exec_evFdcDrq s b hm).trans (if_neg (risingEdge_eq_false h)), rfl, stallMayEnd_cpuWait_draws⟩⟩

/-! #### The wait requests (R119 to R121; 60 R127, R129) -/

/-- Settles O31: each wait request is answered by the fault, which keeps the state the request was made in. -/
theorem waitRequestsFaultByDefault : Obligations.WaitRequestsFaultByDefault := by
  intro s hm hw
  exact ⟨fun hi => ⟨_, exec_waitRequested hm hw (.irqRise hi), rfl, stallMayEnd_cpuWait_draws⟩,
    fun hd => ⟨_, exec_waitRequested hm hw (.drqRise hd), rfl, stallMayEnd_cpuWait_draws⟩,
    fun hfault hi hd => exec_waitRequested hm hw (.busyRead (fcBusy_iff.2 ⟨hfault, hi, hd⟩)),
    rfl, rfl, rfl, rfl⟩

theorem waitRequest_stall {s : State} (cause : WaitCause) (rest : State → Result) (hw : s.cfg.hostWait = .stall) :
    waitRequest cause s rest = rest s.driveWait := by
  simp only [waitRequest, hw]

/-- A rising edge with `HOST_WAIT = stall` drives the wait line and completes (60 R129). -/
theorem lineEvent_stall {cause : WaitCause} {u : State} {old : Bool} (hold : old = false)
    (hw : u.cfg.hostWait = .stall) :
    (if risingEdge old true then waitRequest cause u .next else .next u) = .next u.driveWait :=
  (if_pos (risingEdge_eq_true.2 ⟨hold, rfl⟩)).trans (waitRequest_stall cause .next hw)

/-- The status byte of a busy read, IRQ being low (R115). -/
theorem fcStatusByte_low (cfg : Config) : fcStatusByte cfg false = if cfg.fcIrqInverted then 0x80#8 else 0x00#8 := by
  cases h : cfg.fcIrqInverted <;> simp [fcStatusByte, h, bitAt]

/-- Settles O32: each wait request drives the line and goes on with what the operation does without it. -/
theorem stallHostDrivesTheWaitLine : Obligations.StallHostDrivesTheWaitLine := by
  intro s hm hw
  refine ⟨fun hfault hi hd => ?busy, fun hi => ⟨_, (exec_evFdcIrq s true hm).trans (lineEvent_stall hi hw), rfl⟩,
    fun hd => ⟨_, (exec_evFdcDrq s true hm).trans (lineEvent_stall hd hw), rfl⟩⟩
  case busy =>
    rw [exec_inFdcWait s hm, if_pos (fcBusy_iff.2 ⟨hfault, hi, hd⟩), waitRequest_stall _ _ hw, ← fcStatusByte_low, ← hi]
    rfl

end Sys2Proof.Machine

/-! ### The toggle, hidden RAM and writes under the ROM (41 R78; 70 R154, R156) -/

namespace Sys2Proof.Machine

/-! #### The toggle (R78) -/

theorem toggleMode_toggleMode (m : Mode) : toggleMode (toggleMode m) = m := by
  cases m <;> rfl

/-- Rebinding does nothing where the bindings are up to date (41 R76). -/
theorem rebind_of_coherent {s : State} (hc : s.Coherent) : s.rebind = s := by
  rw [State.rebind, ← hc]

/-- A rebind of the old mode and selector undoes whatever the bindings were moved to. -/
theorem rebind_restored {s : State} (hc : s.Coherent) {m : Mode} (hm : m = s.mode) (win : Windows) :
    ({ s with mode := m, win := win } : State).rebind = s := by
  subst hm
  exact rebind_of_coherent hc

/-- Settles O11: the write rebinds in the toggled mode, and toggling twice, or in ZERO, gives the mode back. -/
theorem toggleWrite : Obligations.ToggleWrite := by
  intro s v w hm
  refine ⟨⟨_, exec_outEpromToggle s v hm, rfl, rfl, congrArg toggleMode, congrArg toggleMode, congrArg toggleMode,
    fun hc => ?twice⟩, fun hc hz => ?zero⟩
  case twice =>
    exact Eq.trans (exec_outEpromToggle _ w hm) (congrArg _ (rebind_restored hc (toggleMode_toggleMode s.mode) _))
  case zero =>
    rw [exec_outEpromToggle s v hm]
    exact congrArg _ (rebind_restored hc (by rw [hz]; rfl) s.win)

/-! #### Accesses by the mode and the selector (41 R75) -/

section coherent
variable {s : State} {a : Addr16} (hc : s.Coherent)
include hc

theorem win_w_inRange (hr : s.selector.toNat < s.cfg.bankCount.val) : s.win.w = .ram s.selector := by
  rw [hc, bind_w, if_pos hr]

theorem win_w_outOfRange (hr : s.cfg.bankCount.val ≤ s.selector.toNat) : s.win.w = .detached := by
  rw [hc, bind_w, if_neg (Nat.not_lt.2 hr)]

theorem win_rl_zero (hmode : s.mode = .zero) : s.win.rl = .romMirror := by
  rw [hc, bind_rl, if_pos hmode]

theorem win_rl_inRange (hmode : s.mode ≠ .zero) (hr : s.selector.toNat < s.cfg.bankCount.val) :
    s.win.rl = .ram s.selector := by
  rw [hc, bind_rl, if_neg hmode, if_pos hr]

theorem win_rl_outOfRange (hmode : s.mode ≠ .zero) (hr : s.cfg.bankCount.val ≤ s.selector.toNat) :
    s.win.rl = .detached := by
  rw [hc, bind_rl, if_neg hmode, if_neg (Nat.not_lt.2 hr)]

theorem win_rh_rom (hmode : s.mode ≠ .off) : s.win.rh = .rom := by
  rw [hc, bind_rh, if_neg hmode]

theorem win_rh_inRange (hmode : s.mode = .off) (hr : s.selector.toNat < s.cfg.bankCount.val) :
    s.win.rh = .ram s.selector := by
  rw [hc, bind_rh, if_pos hmode, if_pos hr]

end coherent

/-- The state after a byte has been stored in the selected bank (40 R73). -/
structure StoredInBank (s : State) (a : Addr16) (v : Byte) (t : State) : Prop where
  coherent : t.Coherent
  cfg : t.cfg = s.cfg
  mode : t.mode = s.mode
  selector : t.selector = s.selector
  romByte : ∀ i, t.romByte i = s.romByte i
  ramByte : t.ramByte (physRam s.selector a) = v

section access
variable {s : State} {a : Addr16} (hm : s.cfg.machine = .xor100) (hc : s.Coherent)
variable (hr : s.selector.toNat < s.cfg.bankCount.val)
include hm hc hr

/-- With the selector in range a write up to the end of the write window goes to the selected bank. -/
theorem exec_wrWin_inRange (v : Byte) (ha : a.toNat ≤ s.cfg.writeWindowEnd.addr) :
    ∃ t, exec (.wrWin a v) s = .next t ∧ StoredInBank s a v t := by
  refine ⟨s.writeRam (physRam s.selector a) v, ?_, hc, rfl, rfl, rfl, fun i => romByte_writeRam s _ i v, ?_⟩
  · rw [exec_wrWin_elim hm, writeTarget_ram (win_w_inRange hc hr) ha]
    rfl
  · rw [ramByte_writeRam, if_pos rfl]

/-- With the selector in range a low read returns a byte of the selected bank in every mode but ZERO. -/
theorem exec_rdLo_inRange (hmode : s.mode ≠ .zero) :
    exec (.rdLo a) s = .next (s.answer (.byte (s.ramByte (physRam s.selector a)))) := by
  rw [exec_rdLo s a hm, readLow_ram (win_rl_inRange hc hmode hr)]
  rfl

/-- With the selector in range a high read returns a byte of the selected bank in mode OFF. -/
theorem exec_rdHi_inRange (hmode : s.mode = .off) :
    exec (.rdHi a) s = .next (s.answer (.byte (s.ramByte (physRam s.selector a)))) := by
  rw [exec_rdHi s a hm, readHigh_ram (win_rh_inRange hc hmode hr)]
  rfl

end access

/-- What a port operation of the bank switch leaves: the rebound windows and the same memory (41 R76 to R79). -/
structure Rebound (i : Instr) (s t : State) : Prop where
  coherent : t.Coherent
  cfg : t.cfg = s.cfg
  mode : t.mode = modeAfter i s.mode
  selector : t.selector = selectorAfter i s
  bytes : SameBytes s t

theorem Rebound.ramByte {i : Instr} {s t : State} (h : Rebound i s t) (k : Nat) : t.ramByte k = s.ramByte k :=
  h.bytes.2.1 k

section bankSwitch
variable {i : Instr} {s t : State} (hi : i = .inEpromF800 ∨ ∃ v, i = .outBanksel v ∨ i = .outEpromToggle v)
include hi

theorem rebound_of_exec (h : exec i s = .next t) : Rebound i s t := by
  have hc : t.Coherent := coherent_of_rebinding h (hi.imp (fun h => by simp [h]) .inl)
  have hbytes : SameBytes s t := by
    refine onlyMemoryWritesChangeMemory i s t h ?_ ?_
    · rcases hi with rfl | ⟨v, rfl | rfl⟩ <;> nofun
    · rcases hi with rfl | ⟨v, rfl | rfl⟩ <;> nofun
  exact ⟨hc, exec_next_cfg h, exec_next_mode h, (exec_next_selector_cpuWait h).1, hbytes⟩

theorem exists_rebound (hm : s.cfg.machine = .xor100) : ∃ t, exec i s = .next t ∧ Rebound i s t := by
  suffices ∃ t, exec i s = .next t from this.imp fun _ h => ⟨h, rebound_of_exec hi h⟩
  rcases hi with rfl | ⟨v, rfl | rfl⟩
  · exact ⟨_, exec_inEpromF800 s hm⟩
  · exact ⟨_, exec_outBanksel s v hm⟩
  · exact ⟨_, exec_outEpromToggle s v hm⟩

end bankSwitch

/-! #### Writes under the ROM (R154) and hidden RAM (R156) -/

@[simp] theorem ramByte_answer (s : State) (d : BusData) (i : Nat) : (s.answer d).ramByte i = s.ramByte i := rfl

theorem low_le_writeWindowEnd {a : Addr16} (w : WriteWindowEnd) (ha : a.toNat < 0xF800) : a.toNat ≤ w.addr := by
  cases w <;> simp only [WriteWindowEnd.addr] <;> omega

/-- Settles O25: the write goes to the selected bank whatever the read bindings are; the mode changes keep that bank's
bytes and bind the read window to it. -/
theorem writeUnderRomAppearsWhenTheModeChanges : Obligations.WriteUnderRomAppearsWhenTheModeChanges := by
  intro s a v b hm hc hr
  refine ⟨fun hmode ha hmirror => ?low, fun hmode ha hend => ?high⟩
  case low =>
    obtain ⟨t, ht, hst⟩ := exec_wrWin_inRange hm hc hr v (low_le_writeWindowEnd _ ha)
    have htm : t.cfg.machine = .xor100 := by rwa [hst.cfg]
    obtain ⟨w, hw, hforced⟩ := exists_rebound (s := t.answer (.byte (readLow t a))) (.inl rfl) htm
    have hwcfg : w.cfg = s.cfg := hforced.cfg.trans hst.cfg
    have hwsel : w.selector = s.selector := hforced.selector.trans hst.selector
    refine ⟨t, _, w, _, ht, exec_rdLo t a htm, ?rom, hw, exec_rdLo_inRange (by rwa [hwcfg]) hforced.coherent
      (by rwa [hwcfg, hwsel]) (hforced.mode.trans_ne nofun), ?ram⟩
    case rom =>
      have hrl : t.win.rl = .romMirror := win_rl_zero hst.coherent (hst.mode.trans hmode)
      rw [answer_result, readLow_romMirror hrl (by rwa [hst.cfg]), hst.romByte]
    case ram => rw [answer_result, hwsel, hforced.ramByte, ramByte_answer, hst.ramByte]
  case high =>
    obtain ⟨t, ht, hst⟩ := exec_wrWin_inRange hm hc hr v hend
    have htm : t.cfg.machine = .xor100 := by rwa [hst.cfg]
    obtain ⟨w, hw, hforced⟩ := exists_rebound (s := t.answer (.byte (readHigh t a))) (.inl rfl) htm
    obtain ⟨x, hx, htoggled⟩ := exists_rebound (.inr ⟨b, .inr rfl⟩) (hforced.cfg ▸ htm)
    have hxcfg : x.cfg = s.cfg := (htoggled.cfg.trans hforced.cfg).trans hst.cfg
    have hxsel : x.selector = s.selector := (htoggled.selector.trans hforced.selector).trans hst.selector
    have hxmode : x.mode = .off := htoggled.mode.trans (congrArg toggleMode hforced.mode)
    refine ⟨t, _, w, x, _, ht, exec_rdHi t a htm, ?rom, hw, hx, exec_rdHi_inRange (by rwa [hxcfg]) htoggled.coherent
      (by rwa [hxcfg, hxsel]) hxmode, ?ram⟩
    case rom =>
      have hrh : t.win.rh = .rom := win_rh_rom hst.coherent (hst.mode.trans_ne hmode)
      rw [answer_result, readHigh_rom hrh ha, hst.romByte]
    case ram => rw [answer_result, hxsel, htoggled.ramByte, hforced.ramByte, ramByte_answer, hst.ramByte]

/-- Settles O26: with the selector out of range both windows are detached; selecting an existing bank binds them to it,
and no byte of RAM has changed. -/
theorem outOfRangeSelectorHidesRam : Obligations.OutOfRangeSelectorHidesRam := by
  intro s t v w x a b hm hmode ha hv hw h
  have hout := rebound_of_exec (.inr ⟨v, .inl rfl⟩) h
  have htm : t.cfg.machine = .xor100 := by rwa [hout.cfg]
  have htmode : t.mode ≠ .zero := hout.mode.trans_ne hmode
  have htr : t.cfg.bankCount.val ≤ t.selector.toNat := by
    rw [hout.cfg, hout.selector]
    exact hv.trans_eq (toNat_selField v).symm
  obtain ⟨u, hu, hback⟩ := exists_rebound (.inr ⟨w, .inl rfl⟩) htm
  have hucfg : u.cfg = s.cfg := hback.cfg.trans hout.cfg
  have husel : u.selector.toNat = w.toNat % 8 := hback.selector ▸ toNat_selField w
  refine ⟨?read, ?write, u, _, hu,
    exec_rdLo_inRange (by rwa [hucfg]) hback.coherent (by rwa [hucfg, husel]) (hback.mode.trans_ne htmode), ?back⟩
  case read =>
    rw [exec_rdLo t a htm, readLow_detached (win_rl_outOfRange hout.coherent htmode htr), ← hout.cfg]
    rfl
  case write =>
    rw [exec_wrWin_elim htm, writeTarget_none (.inl (win_w_outOfRange hout.coherent htr)), Option.elim_none]
  case back => rw [answer_result, physRam, husel, hback.ramByte, hout.ramByte, bankSize]

end Sys2Proof.Machine

/-! ### The host's events (70 R144, R145, R149, R151) -/

namespace Sys2Proof.Machine

theorem exec_evPoweron (s : State) : exec .evPoweron s = .next s.powerOn := rfl

theorem exec_evReset (s : State) : exec .evReset s = .next { s with mode := .zero }.rebind := rfl

/-- After a power-on every RAM byte is drawn anew (10_state R20). -/
theorem ramByte_powerOn (s : State) (i : Nat) : s.powerOn.ramByte i = Config.ramPowerOn s.powerOn.ramEra i := rfl

theorem get_stopped (d : Drive) : Motors.get ⟨false, false, false, false⟩ d = false := by
  fin_cases d <;> rfl

theorem regions_powerOn {s : State} {k : Nat} {r : Region} (h : s.regions[k]? = some r) :
    s.powerOn.regions[k]? = some (if r.writable then { r with cells := [] } else r) := by
  rw [powerOn_regions, List.getElem?_map, h]
  rfl

/-- Settles O35: the next state is `s.powerOn`, whose fields give each clause. -/
theorem powerOnState : Obligations.PowerOnState := fun s =>
  ⟨s.powerOn, exec_evPoweron s, powerOn_mode s, powerOn_selector s, powerOn_coherent s, powerOn_irq s, powerOn_drq s,
    powerOn_density s, powerOn_selectedDrive s, get_stopped, powerOn_centBusy s, powerOn_centSelect s, powerOn_fault s,
    ⟨s.draws, powerOn_centData s, powerOn_centStrobe s, powerOn_baudA s, powerOn_baudB s⟩, ramByte_powerOn s,
    fun i => romByte_congr (powerOn_rom s) i, fun _ _ => regions_powerOn, powerOn_cpuWait s, powerOn_cfg s,
    powerOn_inputs s, powerOn_chipBytes s, powerOn_result s, powerOn_calls s⟩

/-- Settles O36: the rebind of mode ZERO sets the mode and the bindings and no other field. -/
theorem resetForcesModeZeroOnly : Obligations.ResetForcesModeZeroOnly := exec_evReset

/-- Settles O38: the load gives the saved fields and rebinds them under the same parameters; the power-on before it
selected no drive and cleared the fault. -/
theorem saveRestoreRoundTrip : Obligations.SaveRestoreRoundTrip := by
  intro s f hc hcfg
  refine ⟨_, _, exec_evPoweron f, exec_evRestore _ _, ?win, save_load _ _, ?_, ?_⟩
  case win =>
    rw [load_win, powerOn_cfg, hcfg]
    exact hc.symm
  · rw [load_selectedDrive, powerOn_selectedDrive]
  · rw [load_fault, powerOn_fault]

end Sys2Proof.Machine
